-- ==== Sys2Proof/Word.lean ====
section
/-!
DEFINITION. The values the block computes with (00_scope.md R6): a 4-bit sample, a byte, a 16-bit CRC.
Every value is unsigned and bit 0 is the least significant bit.
-/

namespace Sys2Proof

/-- A sample: four consecutive sub-samples of one half-bit period, bit 3 the earliest (R6, R7). -/
abbrev Nib := BitVec 4

/-- A byte of a command, a list operand, a frame or the STATUS register (R6). -/
abbrev Byte := BitVec 8

/-- The 16-bit CRC register (R6, R231). -/
abbrev Crc := BitVec 16

end Sys2Proof
end

