-- ==== Sys2Proof/Config.lean ====
section
/-!
DEFINITION. The implementation parameters of 00_scope.md R5. They are fixed when the block is built (R297):
State carries them as a field that no command writes, so that a statement about every state holds for every
choice of them, the choice HAS_CRC = false among them (R87).
-/

namespace Sys2Proof

/-- The parameters the model takes (R5). -/
structure Params where
  /-- `MAX_FRAME_BYTES`: capacity of each decoder's frame buffer, in bytes (D16). -/
  maxFrameBytes : Nat
  /-- `MAX_LIST_BYTES`: the longest byte list operand a command accepts (D3). -/
  maxListBytes : Nat
  /-- `HAS_CRC`: whether the optional CRC-16 checker is present (D32). -/
  hasCrc : Bool
  /-- `CRC_POLY`: the reflected CRC-16 polynomial (D30). -/
  crcPoly : Crc
  /-- `CRC_INIT`: the initial value of the CRC-16 register (D30). -/
  crcInit : Crc
deriving DecidableEq, Repr

/-- The values R5 gives for this hardware (log entry 4). -/
def Params.hardware : Params where
  maxFrameBytes := 64
  maxListBytes := 64
  hasCrc := true
  crcPoly := 0x8408#16
  crcInit := 0xE012#16

/-- The bounds R5 sets on the parameters: room for 32 bytes and a partial one, lists of at least 32 bytes,
an initial CRC value other than the ISO 14443-A one. -/
abbrev Params.Legal (p : Params) : Prop :=
  33 ≤ p.maxFrameBytes ∧ 32 ≤ p.maxListBytes ∧ p.crcInit ≠ 0x6363#16

end Sys2Proof
end

