-- ==== Sys2Proof/Syntax.lean ====
section
/-!
DEFINITION. The command set of 30_encoding.md: one constructor of `Instr` per row of the opcode map (R85),
the raw command the host issues (R80), the three formats (R81 to R83) and the causes of a refusal (R262).
-/

namespace Sys2Proof

/-- What the host issues: one command byte and, where the host sends one, a byte list that travels with it
as one unit (R80, R83). An absent list and an empty list are different operands (log entry 6). -/
structure Command where
  /-- `CMD[7:0]`. -/
  cmd : Byte
  /-- The list operand `L`, or `none` where the command arrives without one. -/
  list : Option (List Byte)
deriving DecidableEq, Repr

/-- A command of the opcode map (R85) with its operands assembled (R84). -/
inductive Instr where
  /-- RT_FEED: feed one sample to the R→T decoder (R120). -/
  | rtFeed (s : Nib)
  /-- TR_FEED: feed one sample to the T→R decoder (R175). -/
  | trFeed (s : Nib)
  /-- RT_RESET: soft-reset the R→T decoder (R121). -/
  | rtReset
  /-- TR_RESET: soft-reset the T→R decoder (R176). -/
  | trReset
  /-- BLK_RESET: the whole block to its power-on state (R250). -/
  | blkReset
  /-- ENC_RT: encode a reader→tag frame (R210). -/
  | encRt (bytes : List Byte)
  /-- ENC_TR: encode a tag→reader frame (R211). -/
  | encTr (bytes : List Byte)
  /-- ENC_TR_SOF: encode the SOF-only tag→reader reply (R212). -/
  | encTrSof
  /-- CRC_COMPUTE: the CRC of a byte list (R240). -/
  | crcCompute (bytes : List Byte)
  /-- CRC_CHECK_L: check the CRC of an explicit byte list (R241). -/
  | crcCheckL (bytes : List Byte)
  /-- CRC_CHECK_RT: check the CRC of the latched R→T frame (R242). -/
  | crcCheckRt
  /-- CRC_CHECK_TR: check the CRC of the latched T→R frame (R243). -/
  | crcCheckTr
  /-- RT_READ: read the R→T frame latch (R122). -/
  | rtRead
  /-- TR_READ: read the T→R frame latch (R177). -/
  | trRead
  /-- STATUS_READ: read the status register (R251). -/
  | statusRead
deriving DecidableEq, Repr

/-- The command a command byte names, before its operands are read: the rows of R85. -/
inductive Opcode where
  | rtFeed | trFeed | rtReset | trReset | blkReset | encRt | encTr | encTrSof
  | crcCompute | crcCheckL | crcCheckRt | crcCheckTr | rtRead | trRead | statusRead
deriving DecidableEq, Repr

/-- The command formats: S carries a sample in `CMD[3:0]` (R81), C carries nothing (R82), L is followed by a
byte list (R83). -/
inductive Format where
  | sample | control | list
deriving DecidableEq, Repr

/-- Why a command is refused (R262), in the order in which the causes are checked. -/
inductive RefusalCause where
  /-- REF_RESERVED: the command byte is no row of R85 (R86). -/
  | reserved
  /-- REF_NO_CRC: a CRC command while `HAS_CRC` is false (R87). -/
  | noCrc
  /-- REF_SHAPE: a format-L command without its list, or another command with one (R83). -/
  | shape
  /-- REF_LIST_TOO_LONG: a list of more than `MAX_LIST_BYTES` bytes (R83). -/
  | listTooLong
deriving DecidableEq, Repr

end Sys2Proof
end

