-- ==== Sys2Proof/WellFormed.lean ====
section
/-!
DEFINITION. Which instructions a block with given parameters can be asked to run: the checks of R262 that an
assembled instruction can still fail (R83: the length of its list; R87: the presence of the CRC unit).
-/

namespace Sys2Proof

/-- Whether a command belongs to the optional CRC-16 checker (R87). -/
def Instr.usesCrc : Instr → Bool
  | .crcCompute _ | .crcCheckL _ | .crcCheckRt | .crcCheckTr => true
  | .rtFeed _ | .trFeed _ | .rtReset | .trReset | .blkReset | .encRt _ | .encTr _ | .encTrSof
  | .rtRead | .trRead | .statusRead => false

/-- The list operand of a format-L command (R83). -/
def Instr.listOperand : Instr → Option (List Byte)
  | .encRt l | .encTr l | .crcCompute l | .crcCheckL l => some l
  | .rtFeed _ | .trFeed _ | .rtReset | .trReset | .blkReset | .encTrSof | .crcCheckRt | .crcCheckTr
  | .rtRead | .trRead | .statusRead => none

/-- A CRC command needs the CRC unit (R87). -/
def Instr.crcPresent (p : Params) (i : Instr) : Bool :=
  !i.usesCrc || p.hasCrc

/-- A list operand has at most `MAX_LIST_BYTES` bytes (R83). -/
def Instr.listFits (p : Params) (i : Instr) : Bool :=
  match i.listOperand with
  | none => true
  | some l => decide (l.length ≤ p.maxListBytes)

/-- An instruction that the block with parameters `p` does not refuse. -/
def Instr.wellFormed (p : Params) (i : Instr) : Bool :=
  i.crcPresent p && i.listFits p

end Sys2Proof
end

