-- ==== Sys2Proof/Decode.lean ====
section
/-!
DEFINITION. The decoder and the encoder of 30_encoding.md: from the raw command the host issues to an
instruction or to the cause of its refusal (R85 to R88, R262), and back; the pseudo-instructions (R90) and
the assembler's written form, printed and read (R89).
-/

namespace Sys2Proof

/-- `CMD[7:4]`, the opcode group `OPC` (R80). -/
def opcOf (cmd : Byte) : Nib := cmd.extractLsb' 4 4

/-- `CMD[3:0]`, the argument field `ARG`, used as is where it is a sample (R80, R81, R84). -/
def argOf (cmd : Byte) : Nib := cmd.extractLsb' 0 4

/-- The opcode map: `OPC` alone decides RT_FEED and TR_FEED, the whole byte decides every other command, and
a byte of no row is reserved (R85, R86). -/
def opcodeOf (cmd : Byte) : Option Opcode :=
  if opcOf cmd = 0x1#4 then some .rtFeed
  else if opcOf cmd = 0x2#4 then some .trFeed
  else if cmd = 0x40#8 then some .rtReset
  else if cmd = 0x41#8 then some .trReset
  else if cmd = 0x42#8 then some .blkReset
  else if cmd = 0x50#8 then some .encRt
  else if cmd = 0x51#8 then some .encTr
  else if cmd = 0x52#8 then some .encTrSof
  else if cmd = 0x60#8 then some .crcCompute
  else if cmd = 0x64#8 then some .crcCheckL
  else if cmd = 0x65#8 then some .crcCheckRt
  else if cmd = 0x66#8 then some .crcCheckTr
  else if cmd = 0x70#8 then some .rtRead
  else if cmd = 0x71#8 then some .trRead
  else if cmd = 0x72#8 then some .statusRead
  else none

/-- The format of each command; the command byte alone fixes it (R85, R88). -/
def formatOf : Opcode → Format
  | .rtFeed | .trFeed => .sample
  | .encRt | .encTr | .crcCompute | .crcCheckL => .list
  | .rtReset | .trReset | .blkReset | .encTrSof | .crcCheckRt | .crcCheckTr
  | .rtRead | .trRead | .statusRead => .control

/-- The four commands that are reserved where `HAS_CRC` is false (R87). -/
def needsCrc : Opcode → Bool
  | .crcCompute | .crcCheckL | .crcCheckRt | .crcCheckTr => true
  | .rtFeed | .trFeed | .rtReset | .trReset | .blkReset | .encRt | .encTr | .encTrSof
  | .rtRead | .trRead | .statusRead => false

/-- Operand assembly: the sample for format S, the list for format L, nothing for format C (R84). -/
def assemble (s : Nib) (l : List Byte) : Opcode → Instr
  | .rtFeed => .rtFeed s
  | .trFeed => .trFeed s
  | .rtReset => .rtReset
  | .trReset => .trReset
  | .blkReset => .blkReset
  | .encRt => .encRt l
  | .encTr => .encTr l
  | .encTrSof => .encTrSof
  | .crcCompute => .crcCompute l
  | .crcCheckL => .crcCheckL l
  | .crcCheckRt => .crcCheckRt
  | .crcCheckTr => .crcCheckTr
  | .rtRead => .rtRead
  | .trRead => .trRead
  | .statusRead => .statusRead

/-- The decoder: total on every raw command, with the four refusals of R262 checked in the rule's order. -/
def decode (p : Params) (c : Command) : Except RefusalCause Instr :=
  match opcodeOf c.cmd with
  | none => .error .reserved
  | some op =>
    if needsCrc op && !p.hasCrc then .error .noCrc
    else match formatOf op, c.list with
      | .list, none => .error .shape
      | .list, some l =>
        if l.length ≤ p.maxListBytes then .ok (assemble (argOf c.cmd) l op) else .error .listTooLong
      | .sample, some _ => .error .shape
      | .control, some _ => .error .shape
      | .sample, none => .ok (assemble (argOf c.cmd) [] op)
      | .control, none => .ok (assemble (argOf c.cmd) [] op)

/-- The encoder: the command byte and operand of each instruction, from the map of R85. -/
def encode : Instr → Command
  | .rtFeed s => { cmd := 0x1#4 ++ s, list := none }
  | .trFeed s => { cmd := 0x2#4 ++ s, list := none }
  | .rtReset => { cmd := 0x40#8, list := none }
  | .trReset => { cmd := 0x41#8, list := none }
  | .blkReset => { cmd := 0x42#8, list := none }
  | .encRt l => { cmd := 0x50#8, list := some l }
  | .encTr l => { cmd := 0x51#8, list := some l }
  | .encTrSof => { cmd := 0x52#8, list := none }
  | .crcCompute l => { cmd := 0x60#8, list := some l }
  | .crcCheckL l => { cmd := 0x64#8, list := some l }
  | .crcCheckRt => { cmd := 0x65#8, list := none }
  | .crcCheckTr => { cmd := 0x66#8, list := none }
  | .rtRead => { cmd := 0x70#8, list := none }
  | .trRead => { cmd := 0x71#8, list := none }
  | .statusRead => { cmd := 0x72#8, list := none }

/-- The `n` bytes of `w` from bit 8 on, lowest first. -/
def wordBytes : Nat → Nat → List Byte
  | 0, _ => []
  | n + 1, w => BitVec.ofNat 8 (w / 256) :: wordBytes n (w / 256)

/-- A table word as the command the host would issue: the low byte is `CMD`; the bytes above it, up to
`nbits`, are the list operand. A format-L row whose word has no such bytes carries the empty list; any other
row carries a list only where the word has bytes above the first (log entry 5). -/
def commandOfWord (nbits w : Nat) : Command :=
  let cmd : Byte := BitVec.ofNat 8 w
  let l := wordBytes (nbits / 8 - 1) w
  { cmd := cmd
    list := if (opcodeOf cmd).map formatOf = some .list ∨ l ≠ [] then some l else none }

/-- What the decoder of this hardware reads from a table word. -/
def decodeTableWord (nbits w : Nat) : Option Instr :=
  match decode Params.hardware (commandOfWord nbits w) with
  | .ok i => some i
  | .error _ => none

/-! ## Pseudo-instructions (R90) -/

/-- `RT_FEEDS "h0h1…hk"`: one RT_FEED per sample, in order. -/
def rtFeeds (w : List Nib) : List Instr := w.map .rtFeed

/-- `TR_FEEDS "h0h1…hk"`: one TR_FEED per sample, in order. -/
def trFeeds (w : List Nib) : List Instr := w.map .trFeed

/-- `RT_IDLE n`: n samples of carrier high. -/
def rtIdle (n : Nat) : List Instr := rtFeeds (List.replicate n 0xF#4)

/-- `TR_IDLE n`: n samples of no modulation. -/
def trIdle (n : Nat) : List Instr := trFeeds (List.replicate n 0x0#4)

/-- `SNIFF r, t`: one shared sample tick, each decoder given its own view of it. -/
def sniff (r t : Nib) : List Instr := [.rtFeed r, .trFeed t]

/-! ## Written form (R89) -/

/-- The mnemonic of a command (R85, R89). -/
def mnemonic : Instr → String
  | .rtFeed _ => "RT_FEED"
  | .trFeed _ => "TR_FEED"
  | .rtReset => "RT_RESET"
  | .trReset => "TR_RESET"
  | .blkReset => "BLK_RESET"
  | .encRt _ => "ENC_RT"
  | .encTr _ => "ENC_TR"
  | .encTrSof => "ENC_TR_SOF"
  | .crcCompute _ => "CRC_COMPUTE"
  | .crcCheckL _ => "CRC_CHECK_L"
  | .crcCheckRt => "CRC_CHECK_RT"
  | .crcCheckTr => "CRC_CHECK_TR"
  | .rtRead => "RT_READ"
  | .trRead => "TR_READ"
  | .statusRead => "STATUS_READ"

/-- One hexadecimal digit, capitals as R89 writes them. -/
def hexDigit (d : Nib) : String :=
  (["0", "1", "2", "3", "4", "5", "6", "7", "8", "9", "A", "B", "C", "D", "E", "F"].getD d.toNat "")

/-- A byte as R89 writes it: `0x` and two digits. -/
def hexByte (b : Byte) : String := "0x" ++ hexDigit (opcOf b) ++ hexDigit (argOf b)

/-- One line of assembler text: the mnemonic, then its operand if it has one (R89). -/
def assemblyLine (i : Instr) : String :=
  match i with
  | .rtFeed s | .trFeed s => mnemonic i ++ " 0x" ++ hexDigit s
  | .encRt l | .encTr l | .crcCompute l | .crcCheckL l =>
    mnemonic i ++ " [" ++ ", ".intercalate (l.map hexByte) ++ "]"
  | .rtReset | .trReset | .blkReset | .encTrSof | .crcCheckRt | .crcCheckTr
  | .rtRead | .trRead | .statusRead => mnemonic i

/-! ## Reading the written form (R89, R90) -/

/-- The value of one hexadecimal digit, capitals as R89 writes them (log entry 11). -/
def digitValue (c : Char) : Option Nib :=
  (['0', '1', '2', '3', '4', '5', '6', '7', '8', '9', 'A', 'B', 'C', 'D', 'E', 'F'].idxOf? c).map (BitVec.ofNat 4)

/-- The samples a string of hexadecimal digits stands for, one per digit, in order (R90). -/
def digitSamples : List Char → Option (List Nib)
  | [] => some []
  | c :: rest =>
    match digitValue c, digitSamples rest with
    | some d, some ds => some (d :: ds)
    | _, _ => none

/-- `RT_FEEDS "h0h1…hk"` with its digits (R90). -/
def rtFeedsOfDigits (digits : List Char) : Option (List Instr) := (digitSamples digits).map rtFeeds

/-- `TR_FEEDS "h0h1…hk"` with its digits (R90). -/
def trFeedsOfDigits (digits : List Char) : Option (List Instr) := (digitSamples digits).map trFeeds

/-- The elements of a byte list after its opening bracket, `0xhh` each, commas between them (R89). -/
def readBytes : List Char → Option (List Byte)
  | ['0', 'x', h, l, ']'] =>
    match digitValue h, digitValue l with
    | some h, some l => some [h ++ l]
    | _, _ => none
  | '0' :: 'x' :: h :: l :: ',' :: rest =>
    match digitValue h, digitValue l, readBytes rest with
    | some h, some l, some bs => some ((h ++ l) :: bs)
    | _, _, _ => none
  | _ => none

/-- The operand of a line: none, a sample `0xh`, or a bracketed byte list (R89). -/
inductive OperandText where
  | none
  | sample (s : Nib)
  | bytes (l : List Byte)
deriving DecidableEq, Repr

/-- Read the operand of a line, its spaces removed. -/
def readOperand : List Char → Option OperandText
  | [] => some .none
  | ['0', 'x', h] => (digitValue h).map .sample
  | ['[', ']'] => some (.bytes [])
  | '[' :: rest => (readBytes rest).map .bytes
  | _ => .none

/-- The command of a mnemonic and its operand: each mnemonic takes the operand of its format (R89). -/
def readCommand (name : List Char) (x : OperandText) : Option Instr :=
  match x with
  | .sample s =>
    if name = "RT_FEED".toList then some (.rtFeed s)
    else if name = "TR_FEED".toList then some (.trFeed s)
    else .none
  | .bytes l =>
    if name = "ENC_RT".toList then some (.encRt l)
    else if name = "ENC_TR".toList then some (.encTr l)
    else if name = "CRC_COMPUTE".toList then some (.crcCompute l)
    else if name = "CRC_CHECK_L".toList then some (.crcCheckL l)
    else .none
  | .none =>
    if name = "RT_RESET".toList then some .rtReset
    else if name = "TR_RESET".toList then some .trReset
    else if name = "BLK_RESET".toList then some .blkReset
    else if name = "ENC_TR_SOF".toList then some .encTrSof
    else if name = "CRC_CHECK_RT".toList then some .crcCheckRt
    else if name = "CRC_CHECK_TR".toList then some .crcCheckTr
    else if name = "RT_READ".toList then some .rtRead
    else if name = "TR_READ".toList then some .trRead
    else if name = "STATUS_READ".toList then some .statusRead
    else .none

/-- Read one line of assembler text: what stands before the comment sign, its first word as the mnemonic and
the rest, spaces removed, as the operand (R89). -/
def readLine (line : List Char) : Option Instr :=
  let code := (line.takeWhile (fun c => c ≠ ';')).dropWhile (fun c => c = ' ')
  match readOperand ((code.dropWhile (fun c => c ≠ ' ')).filter (fun c => c ≠ ' ')) with
  | some x => readCommand (code.takeWhile (fun c => c ≠ ' ')) x
  | none => none

end Sys2Proof
end

