-- ==== Sys2Proof/Machine/State.lean ====
section
/-!
DEFINITION. The state of the block (10_state.md): the two decoders, the control unit, and, as the model's own
fields, the parameters, the host's command stream, the results handed back and the refusal mark (log entries
1, 3 and 4). Every field is plain data; `State.reset` is power-on reset (70_reset_and_hazards.md R290).
-/

namespace Sys2Proof.Machine

/-- `RT.phase` (R25): UNSYNC = 0, SOC = 1, RECV = 2. -/
inductive RtPhase where
  | unsync | soc | recv
deriving DecidableEq, Repr

/-- `RT.mode` (R26): 0 is N = 4 (`OneOfFour`), 1 is N = 256 (`OneOfTwoFiveSix`). -/
inductive RtMode where
  | oneOfFour | oneOfTwoFiveSix
deriving DecidableEq, Repr

/-- `TR.phase` (R37): UNSYNC = 0, SOC1 = 1, SOC2 = 2, SOC3 = 3, SOFC = 4, DATA = 5, EOFF = 6, ERRW = 7. -/
inductive TrPhase where
  | unsync | soc1 | soc2 | soc3 | sofc | data | eoff | errw
deriving DecidableEq, Repr

/-- `TR.sub` (R40): which halves of the bit period carried modulation. NONE = 0, FIRST = 1, SECOND = 2,
BOTH = 3. -/
inductive TrSub where
  | none | first | second | both
deriving DecidableEq, Repr

/-- The framing errors of R261. They name the rule that was broken; no state records one (log entry 8). -/
inductive FramingError where
  | sofEarly | firstHalf | double | rtSofPattern | noDrop | rtOverflow
  | neitherHalf | trSofPattern | eofShort | trOverflow
deriving DecidableEq, Repr

/-- A frame as a decoder hands it over (R10): its bytes, the trailing bit count (0 when byte-aligned), one
parity bit per byte, and the sub-sample phase of the sync position. -/
structure Frame where
  bytes : List Byte
  tb : BitVec 3
  par : List Bool
  sph : BitVec 2
deriving DecidableEq, Repr

/-- The empty frame both latches hold at power-on (R44, R45). -/
def Frame.empty : Frame where
  bytes := []
  tb := 0#3
  par := []
  sph := 0#2

/-- The Reader→Tag decoder (R23 to R34). -/
structure RtState where
  /-- `RT.prev`: the sample given by the previous RT_FEED (R23). -/
  prev : Nib
  /-- `RT.high`: consecutive examined samples without a drop, 0..8 (R24). -/
  high : BitVec 4
  /-- `RT.phase` (R25). -/
  phase : RtPhase
  /-- `RT.mode` (R26). -/
  mode : RtMode
  /-- `RT.p`: the window position measured while synchronized, 3..7 (R27). -/
  p : BitVec 3
  /-- `RT.sph`: the sub-sample phase of the sync position (R28). -/
  sph : BitVec 2
  /-- `RT.half`: `false` (0) when the next measurement is a first half, `true` (1) when it is a second (R29). -/
  half : Bool
  /-- `RT.slot`: slots of the current group completed so far (R30). -/
  slot : BitVec 9
  /-- `RT.drop`: 0 for no drop in the current group, else its slot counted from 1 (R31). -/
  drop : BitVec 9
  /-- `RT.sr`: the shift register that assembles a byte (R32). -/
  sr : Byte
  /-- `RT.bits`: the bits-within-byte counter, 0, 2, 4 or 6 between commands (R33). -/
  bits : BitVec 3
  /-- `RT.buf`: the frame being assembled (R34). -/
  buf : List Byte
deriving DecidableEq, Repr

/-- The Tag→Reader decoder (R35 to R43). -/
structure TrState where
  /-- `TR.w0`: the oldest of the three samples of the window (R35). -/
  w0 : Nib
  /-- `TR.w1` (R35). -/
  w1 : Nib
  /-- `TR.w2`: the newest of the three (R35). -/
  w2 : Nib
  /-- `TR.warm`: TR_FEED commands since power-on, saturating at 3 (R36). -/
  warm : BitVec 2
  /-- `TR.phase` (R37). -/
  phase : TrPhase
  /-- `TR.j`: the sub-sample position used while synchronized (R38). -/
  j : BitVec 2
  /-- `TR.half`: `false` (0) when the next measurement is a first half, `true` (1) when it is a second (R39). -/
  half : Bool
  /-- `TR.sub` (R40). -/
  sub : TrSub
  /-- `TR.sr`: the Manchester shift register (R41). -/
  sr : Byte
  /-- `TR.bc`: symbols held in `TR.sr`, 0..8 (R42). -/
  bc : BitVec 4
  /-- `TR.buf`: the frame being assembled (R43). -/
  buf : List Byte
deriving DecidableEq, Repr

/-- The control unit: the output latches (R44, R45) and the stored bits 0 to 4 of STATUS (R46, R47). -/
structure Ctl where
  /-- `CTL.RT_OUT`: the last frame the R→T decoder completed (R44). -/
  rtOut : Frame
  /-- `CTL.TR_OUT`: the last frame the T→R decoder completed (R45). -/
  trOut : Frame
  /-- STATUS bit 0, RT_DONE (R46). -/
  rtDone : Bool
  /-- STATUS bit 1, TR_DONE (R46). -/
  trDone : Bool
  /-- STATUS bit 2, CRC_OK (R46, R49). -/
  crcOk : Bool
  /-- STATUS bit 3, RT_OVR (R46). -/
  rtOvr : Bool
  /-- STATUS bit 4, TR_OVR (R46). -/
  trOvr : Bool
deriving DecidableEq, Repr

/-- The result a command hands back to the host (R252). -/
inductive Result where
  /-- RT_FEED, TR_FEED: COMPLETED (`true`) or CONTINUE (`false`). -/
  | feed (completed : Bool)
  /-- RT_RESET, TR_RESET, BLK_RESET: nothing. -/
  | nothing
  /-- ENC_RT, ENC_TR, ENC_TR_SOF: samples in transmit order (R68). -/
  | samples (w : List Nib)
  /-- CRC_COMPUTE: two bytes, the low one first (R67). -/
  | crcBytes (lo hi : Byte)
  /-- CRC_CHECK_L, CRC_CHECK_RT, CRC_CHECK_TR: the ok bit. -/
  | ok (b : Bool)
  /-- RT_READ, TR_READ: the latched frame, its done bit and its ovr bit. -/
  | frame (f : Frame) (done ovr : Bool)
  /-- STATUS_READ: the STATUS byte. -/
  | status (b : Byte)
  /-- A refused command: the refusal and nothing else (R252, R262). -/
  | refused (cause : RefusalCause)
deriving DecidableEq, Repr

/-- What a feed of one sample leaves: the decoder, the control unit and the one-bit result. -/
structure FeedResult (σ : Type) where
  unit : σ
  ctl : Ctl
  /-- COMPLETED is `true`, CONTINUE is `false`. -/
  completed : Bool
deriving DecidableEq, Repr

/-- The state of the machine. -/
structure State where
  /-- The parameters the block is built with, written by no command (R5, R297; log entry 4). -/
  params : Params
  /-- The Reader→Tag decoder. -/
  rt : RtState
  /-- The Tag→Reader decoder. -/
  tr : TrState
  /-- The control unit. -/
  ctl : Ctl
  /-- The refusal mark: set by a refused command, cleared by power-on alone (R262, R290). -/
  refusalMark : Bool
  /-- The commands the host has still to issue, the next one first (R22, R71; log entry 1). -/
  stream : List Command
  /-- The results handed back so far, the newest first (R304; log entry 1). -/
  results : List Result
deriving DecidableEq, Repr

/-- The reasons a step can stop with a fault: none. The block raises no exception and no command stops
execution (R260, R263), so the type has no constructor. Nothing raises it; that is safe. -/
inductive Fault
deriving DecidableEq, Repr

/-- The reasons a step can stop with a refusal. A command the SPEC refuses (R262) is no such stop: the block
goes on, with the refusal mark set (log entry 3). -/
inductive Refusal where
  /-- An instruction that has no meaning yet; `exec` would raise it from an arm rejected by name. No arm is,
  so nothing raises it; that is safe. -/
  | notModelled (mnemonic : String)
deriving DecidableEq, Repr

/-- The R→T decoder at power-on (R290). -/
def RtState.por : RtState where
  prev := 0xF#4
  high := 0#4
  phase := .unsync
  mode := .oneOfFour
  p := 7#3
  sph := 0#2
  half := false
  slot := 0#9
  drop := 0#9
  sr := 0#8
  bits := 0#3
  buf := []

/-- The T→R decoder at power-on (R290). -/
def TrState.por : TrState where
  w0 := 0#4
  w1 := 0#4
  w2 := 0#4
  warm := 0#2
  phase := .unsync
  j := 3#2
  half := false
  sub := .none
  sr := 0#8
  bc := 0#4
  buf := []

/-- The control unit at power-on (R290). -/
def Ctl.por : Ctl where
  rtOut := Frame.empty
  trOut := Frame.empty
  rtDone := false
  trDone := false
  crcOk := false
  rtOvr := false
  trOvr := false

/-- The machine right after power-on reset (R290), built with this hardware's parameters (R5), with no
command issued and no result handed back yet. -/
def State.reset : State where
  params := Params.hardware
  rt := RtState.por
  tr := TrState.por
  ctl := Ctl.por
  refusalMark := false
  stream := []
  results := []

end Sys2Proof.Machine
end

