-- ==== Sys2Proof/Machine/Flags.lean ====
section
/-!
DEFINITION. Every flag of the block (10_state.md R50): the parity bits of a frame (00_scope.md R11), the DONE
and OVR bits a completion and a read write, CRC_OK, and the STATUS byte with its two views of the decoder
phases (R46, R47, 44_control.md R251).
-/

namespace Sys2Proof.Machine

/-- The number of set bits of a byte (R6). -/
def popcount (b : Byte) : Nat :=
  b[0].toNat + b[1].toNat + b[2].toNat + b[3].toNat + b[4].toNat + b[5].toNat + b[6].toNat + b[7].toNat

/-- `par(b) = 1 XOR (popcount(b) mod 2)`, the odd-parity bit of a byte (R11). -/
def parityBit (b : Byte) : Bool := true ^^ (popcount b % 2 == 1)

/-- `parity(bytes)`: one parity bit per byte, in order (R11). -/
def parity (bytes : List Byte) : List Bool := bytes.map parityBit

/-- A completed R→T frame enters its latch: RT_OVR records an unread frame overwritten, RT_DONE is set (R115). -/
def Ctl.latchRt (f : Frame) (c : Ctl) : Ctl :=
  { c with rtOvr := c.rtOvr || c.rtDone, rtOut := f, rtDone := true }

/-- A completed T→R frame enters its latch: TR_OVR records an unread frame overwritten, TR_DONE is set (R166). -/
def Ctl.latchTr (f : Frame) (c : Ctl) : Ctl :=
  { c with trOvr := c.trOvr || c.trDone, trOut := f, trDone := true }

/-- RT_READ clears RT_DONE and RT_OVR and keeps the latch (R122). -/
def Ctl.clearRt (c : Ctl) : Ctl := { c with rtDone := false, rtOvr := false }

/-- TR_READ clears TR_DONE and TR_OVR and keeps the latch (R177). -/
def Ctl.clearTr (c : Ctl) : Ctl := { c with trDone := false, trOvr := false }

/-- A CRC_CHECK command writes CRC_OK and no other flag (R241 to R243). -/
def Ctl.setCrcOk (ok : Bool) (c : Ctl) : Ctl := { c with crcOk := ok }

/-- RT_SYNC, the read-only view of `RT.phase` (R46, R47). -/
def rtSync (r : RtState) : Bool := decide (r.phase ≠ .unsync)

/-- TR_SYNC, the read-only view of `TR.phase` (R46, R47). -/
def trSync (t : TrState) : Bool := decide (t.phase ≠ .unsync)

/-- Bit `k` of a byte set to `b`, every other bit 0. -/
def statusBit (k : Nat) (b : Bool) : Byte := (BitVec.ofBool b).setWidth 8 <<< k

/-- The STATUS byte: bits 0 to 4 are stored, bits 5 and 6 are views, bit 7 reads 0 (R46, R251). -/
def statusByte (r : RtState) (t : TrState) (c : Ctl) : Byte :=
  statusBit 0 c.rtDone ||| statusBit 1 c.trDone ||| statusBit 2 c.crcOk ||| statusBit 3 c.rtOvr
    ||| statusBit 4 c.trOvr ||| statusBit 5 (rtSync r) ||| statusBit 6 (trSync t)

end Sys2Proof.Machine
end

