-- ==== Sys2Proof/Machine/Operands.lean ====
section
/-!
DEFINITION. What the units read: the sub-samples of a sample and of the R→T window (00_scope.md R7,
40_ppm_decoder.md R101, R104, R106), the slot count of a mode, the sub-sample the T→R decoder measures
(41_manchester_decoder.md R155), the bits and groups of a byte the encoder sends (20_memory.md R63, R65), and
the numbers that encode the enumerated fields (10_state.md R25, R26, R37, R40).
-/

namespace Sys2Proof.Machine

/-- The R→T window `W = (RT.prev << 4) | s`: bits 7..4 are the previous sample, bits 3..0 the current (R101). -/
def rtWindow (prev s : Nib) : BitVec 8 := prev ++ s

/-- `d = ~W[7:4]`, the drop mask of the previous sample (R102). -/
def dropMask (w : BitVec 8) : Nib := ~~~(w.extractLsb' 4 4)

/-- Whether the carrier is low at window position `q`: `W[q] = 0` (R100, R104, R106). -/
def droppedAt (w : BitVec 8) (q : Nat) : Bool := !w.getLsbD q

/-- The index of the highest set bit of a non-zero sample: its earliest sub-sample (R7, R104, R152). -/
def highestSet (d : Nib) : Nat :=
  if d[3] then 3 else if d[2] then 2 else if d[1] then 1 else 0

/-- The sync position (R104): the window position of the earliest dropped sub-sample of the previous sample,
or the next later position where that one is dropped too. -/
def syncPosition (w : BitVec 8) (d : Nib) : BitVec 3 :=
  let h := 4 + highestSet d
  BitVec.ofNat 3 (if droppedAt w (h - 1) then h - 1 else h)

/-- N, the number of slots of a group: 4 or 256 as `RT.mode` selects (R26). -/
def RtMode.slots : RtMode → Nat
  | .oneOfFour => 4
  | .oneOfTwoFiveSix => 256

/-- `m`: whether a half carries modulation at the sync sub-sample of `x` or at the next later one, which is
bit 3 of the next sample `a` where `TR.j = 0` (R155). -/
def modulated (x a : Nib) (j : BitVec 2) : Bool :=
  x.getLsbD j.toNat || (if 1 ≤ j.toNat then x.getLsbD (j.toNat - 1) else a[3])

/-- The 2-bit groups of a byte, least significant first (R63, R203). -/
def bitPairs (b : Byte) : List (BitVec 2) :=
  [b.extractLsb' 0 2, b.extractLsb' 2 2, b.extractLsb' 4 2, b.extractLsb' 6 2]

/-- The bits of a byte, least significant first (R65, R206). -/
def byteBits (b : Byte) : List Bool := [b[0], b[1], b[2], b[3], b[4], b[5], b[6], b[7]]

/-- The 2-bit encoding of `RT.phase`; the value 3 is never written (R25). -/
def RtPhase.code : RtPhase → BitVec 2
  | .unsync => 0
  | .soc => 1
  | .recv => 2

/-- The 1-bit encoding of `RT.mode` (R26). -/
def RtMode.code : RtMode → BitVec 1
  | .oneOfFour => 0
  | .oneOfTwoFiveSix => 1

/-- The 3-bit encoding of `TR.phase` (R37). -/
def TrPhase.code : TrPhase → BitVec 3
  | .unsync => 0
  | .soc1 => 1
  | .soc2 => 2
  | .soc3 => 3
  | .sofc => 4
  | .data => 5
  | .eoff => 6
  | .errw => 7

/-- The 2-bit encoding of `TR.sub` (R40). -/
def TrSub.code : TrSub → BitVec 2
  | .none => 0
  | .first => 1
  | .second => 2
  | .both => 3

end Sys2Proof.Machine
end

