-- ==== Sys2Proof/Machine/Ops.lean ====
section
/-!
DEFINITION. The shared operations of the block. It takes no exception and has no trap to return from
(60_exceptions.md R260, R268); what stands in their place is here, each once: the silent reset of a decoder
(R116, R168), which every framing error takes, and the refusal of a command (R262). Beside them: completion
(R115, R166), byte append (R114, R167), and handing a result to the host (R252).
-/

namespace Sys2Proof.Machine

/-! ## Results and refusals -/

/-- Hand a result back to the host (R252, R304). -/
def State.answer (r : Result) (s : State) : State := { s with results := r :: s.results }

/-- Refuse a command (R262): no unit changes, the refusal mark is set and stays set, and the refusal is what
the host gets back (R252). -/
def State.refuse (cause : RefusalCause) (s : State) : State :=
  { s with refusalMark := true, results := .refused cause :: s.results }

/-- A CRC command goes on only where the CRC unit is present; else it is refused (R87, R262 case 2). -/
def State.whenCrc (s : State) (go : State) : State :=
  if s.params.hasCrc then go else s.refuse .noCrc

/-- A format-L command goes on only where its list has at most `MAX_LIST_BYTES` bytes; else it is refused
(R83, R262 case 4). -/
def State.whenListFits (l : List Byte) (s : State) (go : State) : State :=
  if l.length ≤ s.params.maxListBytes then go else s.refuse .listTooLong

/-- Take over what a feed of the R→T decoder left, and hand back its one-bit result (R50, R53). -/
def State.takeRt (f : FeedResult RtState) (s : State) : State :=
  { s with rt := f.unit, ctl := f.ctl, results := .feed f.completed :: s.results }

/-- Take over what a feed of the T→R decoder left, and hand back its one-bit result (R50, R53). -/
def State.takeTr (f : FeedResult TrState) (s : State) : State :=
  { s with tr := f.unit, ctl := f.ctl, results := .feed f.completed :: s.results }

/-- `return CONTINUE`. -/
def continueWith {σ : Type} (u : σ) (c : Ctl) : FeedResult σ :=
  { unit := u, ctl := c, completed := false }

/-! ## The R→T decoder -/

/-- `RT_GoUnsync(cause)` (R116). `RT.prev`, `RT.p` and `RT.sph` are unchanged, and the cause is not stored. -/
def RtState.goUnsync (_cause : Option FramingError) (r : RtState) : RtState :=
  { r with
    phase := .unsync, high := 0#4, mode := .oneOfFour, half := false
    slot := 0#9, drop := 0#9, sr := 0#8, bits := 0#3, buf := [] }

/-- The frame an R→T completion hands over (R115). -/
def RtState.frame (r : RtState) : Frame :=
  { bytes := r.buf, tb := 0#3, par := parity r.buf, sph := r.sph }

/-- `RT_Complete()`, then `return COMPLETED` (R115). -/
def rtComplete (r : RtState) (c : Ctl) : FeedResult RtState :=
  { unit := r.goUnsync none, ctl := c.latchRt r.frame, completed := true }

/-- A framing error of the R→T decoder: the silent reset, then `return CONTINUE` (R116, R117). -/
def rtError (cause : FramingError) (r : RtState) (c : Ctl) : FeedResult RtState :=
  continueWith (r.goUnsync (some cause)) c

/-- `RT_Append(b)` (R114): `false` where the buffer was full and the decoder has gone UNSYNC. -/
def rtAppend (maxBytes : Nat) (b : Byte) (r : RtState) : RtState × Bool :=
  if r.buf.length = maxBytes then (r.goUnsync (some .rtOverflow), false)
  else ({ r with buf := r.buf ++ [b] }, true)

/-! ## The T→R decoder -/

/-- `TR_GoUnsync(cause)` (R168). The window, `TR.warm` and `TR.j` are unchanged, and the cause is not stored. -/
def TrState.goUnsync (_cause : Option FramingError) (t : TrState) : TrState :=
  { t with phase := .unsync, half := false, sub := .none, sr := 0#8, bc := 0#4, buf := [] }

/-- `TR_Complete(bytes, tb)`, then `return COMPLETED` (R166). -/
def trComplete (bytes : List Byte) (tb : BitVec 3) (t : TrState) (c : Ctl) : FeedResult TrState :=
  { unit := t.goUnsync none
    ctl := c.latchTr { bytes := bytes, tb := tb, par := parity bytes, sph := 0#2 }
    completed := true }

/-- A framing error the T→R decoder recovers from at once: the silent reset, then `return CONTINUE` (R168). -/
def trError (cause : FramingError) (t : TrState) (c : Ctl) : FeedResult TrState :=
  continueWith (t.goUnsync (some cause)) c

/-- A framing error the T→R decoder waits out: it enters ERRW for one bit period (R159 to R161, R164, R165). -/
def trErrorWait (_cause : FramingError) (t : TrState) (c : Ctl) : FeedResult TrState :=
  continueWith { t with phase := .errw } c

/-- `TR_Append(b)` (R167): `false` where the buffer was full and the decoder has gone UNSYNC. -/
def trAppend (maxBytes : Nat) (b : Byte) (t : TrState) : TrState × Bool :=
  if t.buf.length = maxBytes then (t.goUnsync (some .trOverflow), false)
  else ({ t with buf := t.buf ++ [b] }, true)

end Sys2Proof.Machine
end

