-- ==== Sys2Proof/Machine/Control.lean ====
section
/-!
DEFINITION. Block control and status (44_control.md): BLK_RESET (R250) and STATUS_READ (R251).
-/

namespace Sys2Proof.Machine

/-- What BLK_RESET writes to the R→T decoder (R250). -/
def rtBlockReset : RtState where
  prev := 0xF#4
  high := 0#4
  phase := .unsync
  mode := .oneOfFour
  p := 7#3
  sph := 0#2
  half := false
  slot := 0#9
  drop := 0#9
  sr := 0x00#8
  bits := 0#3
  buf := []

/-- What BLK_RESET writes to the T→R decoder (R250). -/
def trBlockReset : TrState where
  w0 := 0x0#4
  w1 := 0x0#4
  w2 := 0x0#4
  warm := 0#2
  phase := .unsync
  j := 3#2
  half := false
  sub := .none
  sr := 0x00#8
  bc := 0#4
  buf := []

/-- What BLK_RESET writes to the latches and to STATUS[4:0] (R250). -/
def ctlBlockReset : Ctl where
  rtOut := { bytes := [], tb := 0#3, par := [], sph := 0#2 }
  trOut := { bytes := [], tb := 0#3, par := [], sph := 0#2 }
  rtDone := false
  trDone := false
  crcOk := false
  rtOvr := false
  trOvr := false

/-- BLK_RESET (R250): every field of the three units; the refusal mark is kept (R262, R291). -/
def execBlkReset (s : State) : Host.Outcome State Fault Refusal :=
  .next { s.answer .nothing with rt := rtBlockReset, tr := trBlockReset, ctl := ctlBlockReset }

/-- STATUS_READ (R251): no side effect beyond handing the byte back. -/
def execStatusRead (s : State) : Host.Outcome State Fault Refusal :=
  .next (s.answer (.status (statusByte s.rt s.tr s.ctl)))

end Sys2Proof.Machine
end

