-- ==== Sys2Proof/Machine/Crc16.lean ====
section
/-!
DEFINITION. The optional CRC-16 checker (43_crc16.md): the function of R231 and its byte-wise form (R232), the
byte order (R233), the check predicate (R234) and the commands CRC_COMPUTE (R240), CRC_CHECK_L (R241),
CRC_CHECK_RT (R242) and CRC_CHECK_TR (R243). Each is refused where the unit is absent (30_encoding.md R87).
-/

namespace Sys2Proof.Machine

/-- One shift of the CRC register (R231). -/
def crcShift (poly v : Crc) : Crc := if v[0] then (v >>> 1) ^^^ poly else v >>> 1

/-- `n` shifts of the CRC register. -/
def crcShifts (poly : Crc) : Nat → Crc → Crc
  | 0, c => c
  | n + 1, c => crcShifts poly n (crcShift poly c)

/-- One byte into the CRC register: zero-extended and XORed in, then eight shifts (R231). -/
def crcByte (poly : Crc) (c : Crc) (b : Byte) : Crc := crcShifts poly 8 (c ^^^ b.setWidth 16)

/-- `crc16(bs)`, with no final XOR (R231). -/
def crc16 (p : Params) (bs : List Byte) : Crc := bs.foldl (crcByte p.crcPoly) p.crcInit

/-- One byte into the CRC register in the byte-wise form, which is that of the polynomial 0x8408 (R232). -/
def crcByteDirect (w : Crc) (b : Byte) : Crc :=
  let t : Byte := b ^^^ w.setWidth 8
  let t : Byte := t ^^^ (t <<< 4)
  (w >>> 8) ^^^ (t.setWidth 16 <<< 8) ^^^ (t.setWidth 16 <<< 3) ^^^ (t.setWidth 16 >>> 4)

/-- The low byte of a CRC, the first on the air (R67, R233). -/
def crcLow (c : Crc) : Byte := c.setWidth 8

/-- The high byte of a CRC, the second on the air (R67, R233). -/
def crcHigh (c : Crc) : Byte := (c >>> 8).setWidth 8

/-- `crc_bytes(bs)` (R233). -/
def crcBytes (p : Params) (bs : List Byte) : List Byte :=
  [crcLow (crc16 p bs), crcHigh (crc16 p bs)]

/-- `crc_ok(bs, tb)` (R234): byte-aligned, at least two bytes, and the last two are the CRC of the rest. -/
def crcOk (p : Params) (bs : List Byte) (tb : BitVec 3) : Bool :=
  decide (tb = 0#3) && decide (2 ≤ bs.length)
    && decide (crcBytes p (bs.take (bs.length - 2)) = bs.drop (bs.length - 2))

/-- Write the outcome of a check to CRC_OK and hand it back (R241 to R243). -/
def State.checkCrc (ok : Bool) (s : State) : State :=
  { s.answer (.ok ok) with ctl := s.ctl.setCrcOk ok }

/-- CRC_COMPUTE (R240). -/
def execCrcCompute (l : List Byte) (s : State) : Host.Outcome State Fault Refusal :=
  .next (s.whenCrc (s.whenListFits l
    (s.answer (.crcBytes (crcLow (crc16 s.params l)) (crcHigh (crc16 s.params l))))))

/-- CRC_CHECK_L (R241). -/
def execCrcCheckL (l : List Byte) (s : State) : Host.Outcome State Fault Refusal :=
  .next (s.whenCrc (s.whenListFits l (s.checkCrc (crcOk s.params l 0#3))))

/-- CRC_CHECK_RT (R242): whatever the R→T latch holds, read or not. -/
def execCrcCheckRt (s : State) : Host.Outcome State Fault Refusal :=
  .next (s.whenCrc (s.checkCrc (crcOk s.params s.ctl.rtOut.bytes s.ctl.rtOut.tb)))

/-- CRC_CHECK_TR (R243): whatever the T→R latch holds, read or not. -/
def execCrcCheckTr (s : State) : Host.Outcome State Fault Refusal :=
  .next (s.whenCrc (s.checkCrc (crcOk s.params s.ctl.trOut.bytes s.ctl.trOut.tb)))

end Sys2Proof.Machine
end

