-- ==== Sys2Proof/Machine/FrameEncoder.lean ====
section
/-!
DEFINITION. The frame encoder (42_frame_encoder.md): the waveform elements of R201 to R207 and the commands
ENC_RT (R210), ENC_TR (R211) and ENC_TR_SOF (R212). It reads no decoder state and writes none (R200).
-/

namespace Sys2Proof.Machine

/-- `H` on the R→T line and `M` on the T→R line: carrier high, modulation present (R201). -/
def levelHigh : Nib := 0xF#4

/-- `L` on the R→T line and `U` on the T→R line: a drop, no modulation (R201). -/
def levelLow : Nib := 0x0#4

/-- The R→T Start-of-Communication preamble `0FFFF0FF` (R202). -/
def rtSof : List Nib :=
  [levelLow, levelHigh, levelHigh, levelHigh, levelHigh, levelLow, levelHigh, levelHigh]

/-- One slot of a group: high then drop where the slot is the group's value, else high throughout (R203). -/
def rtSlotWave (v : BitVec 2) (k : Nat) : List Nib :=
  if k = v.toNat then [levelHigh, levelLow] else [levelHigh, levelHigh]

/-- The four slots of a 2-bit group (R203). -/
def rtGroupWave (v : BitVec 2) : List Nib :=
  rtSlotWave v 0 ++ rtSlotWave v 1 ++ rtSlotWave v 2 ++ rtSlotWave v 3

/-- The 32 samples of an R→T byte, its least significant group first (R203). -/
def rtByteWave (b : Byte) : List Nib := (bitPairs b).flatMap rtGroupWave

/-- The R→T End-of-Communication postamble `FF0F` (R204). -/
def rtEof : List Nib := [levelHigh, levelHigh, levelLow, levelHigh]

/-- The samples of an R→T frame (R210). -/
def rtFrameWave (bytes : List Byte) : List Nib := rtSof ++ bytes.flatMap rtByteWave ++ rtEof

/-- The T→R Start-of-Field preamble `000FFF0F` (R205). -/
def trSof : List Nib :=
  [levelLow, levelLow, levelLow, levelHigh, levelHigh, levelHigh, levelLow, levelHigh]

/-- A T→R bit: 0 is modulated then unmodulated, 1 the reverse (R206). -/
def trBitWave (v : Bool) : List Nib := if v then [levelLow, levelHigh] else [levelHigh, levelLow]

/-- The 16 samples of a T→R byte, its least significant bit first (R206). -/
def trByteWave (b : Byte) : List Nib := (byteBits b).flatMap trBitWave

/-- The T→R End-of-Field postamble `F0FFF000` (R207). -/
def trEof : List Nib :=
  [levelHigh, levelLow, levelHigh, levelHigh, levelHigh, levelLow, levelLow, levelLow]

/-- The samples of a T→R frame (R211). -/
def trFrameWave (bytes : List Byte) : List Nib := trSof ++ bytes.flatMap trByteWave ++ trEof

/-- ENC_RT (R210). -/
def execEncRt (l : List Byte) (s : State) : Host.Outcome State Fault Refusal :=
  .next (s.whenListFits l (s.answer (.samples (rtFrameWave l))))

/-- ENC_TR (R211). -/
def execEncTr (l : List Byte) (s : State) : Host.Outcome State Fault Refusal :=
  .next (s.whenListFits l (s.answer (.samples (trFrameWave l))))

/-- ENC_TR_SOF (R212). -/
def execEncTrSof (s : State) : Host.Outcome State Fault Refusal :=
  .next (s.answer (.samples trSof))

end Sys2Proof.Machine
end

