-- ==== Sys2Proof/Machine/ManchesterDecoder.lean ====
section
/-!
DEFINITION. The Tag→Reader Manchester decoder (41_manchester_decoder.md): the procedures of R151 to R167 and
the commands TR_FEED (R175), TR_RESET (R176) and TR_READ (R177).
-/

namespace Sys2Proof.Machine

/-- Sync entry at sub-sample `k` (R154): the oldest sample is the modulated first half of the first SOF bit
period. -/
def trSyncEntry (k : Nat) (t : TrState) : TrState :=
  { t with
    j := BitVec.ofNat 2 k, phase := .soc1, half := true, sub := .first
    sr := 0#8, bc := 0#4, buf := [] }

/-- Search and confirmation (R152, R153): the highest bit set in both `x` and `a`, confirmed by `b`. No other
bit is tried. -/
def trSearch (x a b : Nib) (t : TrState) : TrState :=
  if x &&& a = 0#4 then t
  else
    let k := highestSet (x &&& a)
    if b.getLsbD k then trSyncEntry k t else t

/-- SOF stage 1 (R159): a both-halves period realigns the decoder to a second half. -/
def trStage1 (t : TrState) (c : Ctl) : FeedResult TrState :=
  if t.sub = .both then continueWith { t with phase := .soc2, half := true, sub := .none } c
  else trErrorWait .trSofPattern t c

/-- SOF stage 2 (R160). -/
def trStage2 (t : TrState) (c : Ctl) : FeedResult TrState :=
  if t.sub = .second then continueWith { t with phase := .soc3 } c
  else trErrorWait .trSofPattern t c

/-- SOF stage 3 (R161). -/
def trStage3 (t : TrState) (c : Ctl) : FeedResult TrState :=
  if t.sub = .second then continueWith { t with phase := .sofc } c
  else trErrorWait .trSofPattern t c

/-- The shift of one symbol into `TR.sr`: it enters at bit 7 (R41, R162). -/
def trShiftIn (v : Bool) (t : TrState) : TrState :=
  { t with
    sr := (t.sr >>> 1) ||| ((BitVec.ofBool v).setWidth 8 <<< 7)
    bc := t.bc + 1#4
    phase := .data }

/-- `TR_Symbol(v)` (R162): a full byte that is waiting is flushed before the new symbol is shifted in. -/
def trSymbol (maxBytes : Nat) (v : Bool) (t : TrState) (c : Ctl) : FeedResult TrState :=
  if t.bc = 8#4 then
    match trAppend maxBytes t.sr t with
    | (t', false) => continueWith t' c
    | (t', true) => continueWith (trShiftIn v { t' with sr := 0#8, bc := 0#4 }) c
  else continueWith (trShiftIn v t) c

/-- A data symbol or the both-halves period that starts the EOF (R162, R163). -/
def trDataPeriod (maxBytes : Nat) (t : TrState) (c : Ctl) : FeedResult TrState :=
  match t.sub with
  | .second => trSymbol maxBytes true t c
  | .first => trSymbol maxBytes false t c
  | .both => continueWith { t with phase := .eoff } c
  | .none => continueWith t c

/-- The data bits of a partial byte (R66), of which `bc` counts one symbol more, the EOF lead-in: the first
received bit at bit 0, and nothing above the last. The lead-in, of either value, is dropped (D22; log entry 7). -/
def partialByte (sr : Byte) (bc : BitVec 4) : Byte :=
  (sr >>> (8 - bc.toNat)) &&& BitVec.ofNat 8 (2 ^ (bc.toNat - 1) - 1)

/-- End of frame (R164): the lead-in symbol is counted and dropped, and the data bits of a partial byte are
handed over right-aligned. -/
def trEndOfFrame (maxBytes : Nat) (t : TrState) (c : Ctl) : FeedResult TrState :=
  if t.buf = [] ∧ t.bc = 0#4 then trErrorWait .eofShort t c
  else if 2 ≤ t.bc.toNat then
    match trAppend maxBytes (partialByte t.sr t.bc) t with
    | (t', false) => continueWith t' c
    | (t', true) => trComplete t'.buf (BitVec.ofNat 3 (t.bc.toNat - 1)) t' c
  else trComplete t.buf 0#3 t c

/-- The phase step after a second half that left a symbol (R159 to R165). -/
def trPhaseStep (maxBytes : Nat) (t : TrState) (c : Ctl) : FeedResult TrState :=
  match t.phase with
  | .soc1 => trStage1 t c
  | .soc2 => trStage2 t c
  | .soc3 => trStage3 t c
  | .sofc => trDataPeriod maxBytes t c
  | .data => trDataPeriod maxBytes t c
  | .eoff => trEndOfFrame maxBytes t c
  | .errw => continueWith (t.goUnsync none) c
  | .unsync => continueWith t c

/-- A bit period with neither half modulated (R158): the SOF-only acknowledgement straight after the SOF, a
framing error anywhere else. -/
def trNeither (t : TrState) (c : Ctl) : FeedResult TrState :=
  if t.phase = .sofc then trComplete [0x0F#8] 0#3 t c
  else trError .neitherHalf t c

/-- The symbol of a bit period from its first half and the measurement of its second (R157). -/
def combine (m : Bool) (sub : TrSub) : TrSub :=
  if m then (if sub = .first then .both else .second) else sub

/-- The second half of a bit period (R157, R158, then the phase step). -/
def trSecondHalf (maxBytes : Nat) (m : Bool) (t : TrState) (c : Ctl) : FeedResult TrState :=
  let t := { t with half := false, sub := combine m t.sub }
  if t.sub = .none then trNeither t c else trPhaseStep maxBytes t c

/-- The first half of a bit period (R156). -/
def trFirstHalf (m : Bool) (t : TrState) : TrState :=
  { t with half := true, sub := if m then .first else .none }

/-- The window shift (R151). -/
def TrState.shiftWindow (s : Nib) (t : TrState) : TrState :=
  { t with w0 := t.w1, w1 := t.w2, w2 := s }

/-- `TR_FEED(s)` on the decoder and the control unit (R175): the window and its warm-up, then the search while
UNSYNC, else the measurement of one half of the sample three feeds old. -/
def trFeed (maxBytes : Nat) (s : Nib) (t : TrState) (c : Ctl) : FeedResult TrState :=
  let x := t.w0
  let a := t.w1
  let b := t.w2
  let t := t.shiftWindow s
  if t.warm.toNat < 3 then continueWith { t with warm := t.warm + 1#2 } c
  else if t.phase = .unsync then continueWith (trSearch x a b t) c
  else
    let m := modulated x a t.j
    if t.half then trSecondHalf maxBytes m t c
    else continueWith (trFirstHalf m t) c

/-- TR_FEED (R175). -/
def execTrFeed (x : Nib) (s : State) : Host.Outcome State Fault Refusal :=
  .next (s.takeTr (trFeed s.params.maxFrameBytes x s.tr s.ctl))

/-- TR_RESET (R176): the silent reset; the window, the latch and every stored STATUS bit are kept. -/
def execTrReset (s : State) : Host.Outcome State Fault Refusal :=
  .next { s.answer .nothing with tr := s.tr.goUnsync none }

/-- TR_READ (R177): the latch with its done and ovr bits, which the read clears. -/
def execTrRead (s : State) : Host.Outcome State Fault Refusal :=
  .next { s.answer (.frame s.ctl.trOut s.ctl.trDone s.ctl.trOvr) with ctl := s.ctl.clearTr }

end Sys2Proof.Machine
end

