-- ==== Sys2Proof/Machine/PpmDecoder.lean ====
section
/-!
DEFINITION. The Reader→Tag pulse-position decoder (40_ppm_decoder.md): the procedures of R101 to R114 and the
commands RT_FEED (R120), RT_RESET (R121) and RT_READ (R122).
-/

namespace Sys2Proof.Machine

/-- Sync entry (R104, R105): the candidate sample is the first half of slot 1 of the SOF. `RT.high` stays. -/
def rtSyncEntry (w : BitVec 8) (d : Nib) (r : RtState) : RtState :=
  let p := syncPosition w d
  { r with
    p := p, sph := p.extractLsb' 0 2
    phase := .soc, mode := .oneOfFour, half := true
    slot := 0#9, drop := 0#9, sr := 0#8, bits := 0#3, buf := [] }

/-- `RT_Search(W)` (R102, R103). -/
def rtSearch (w : BitVec 8) (r : RtState) : RtState :=
  let d := dropMask w
  if d = 0#4 then { r with high := BitVec.ofNat 4 (min (r.high.toNat + 1) 8) }
  else if r.high.toNat < 8 then { r with high := 0#4 }
  else rtSyncEntry w d r

/-- `RT_FirstHalf(dropped)` (R108): EOF and the first-half errors. -/
def rtFirstHalf (dropped : Bool) (r : RtState) (c : Ctl) : FeedResult RtState :=
  if !dropped then continueWith r c
  else if r.slot = 1#9 then
    if r.phase = .recv then rtComplete r c
    else rtError .sofEarly r c
  else if r.phase = .recv then rtError .firstHalf r c
  else continueWith r c

/-- End of the SOF group (R111): the slot of its second-half drop selects the mode. -/
def rtSofGroupEnd (r : RtState) (c : Ctl) : FeedResult RtState :=
  if r.drop = 4#9 then
    continueWith { r with phase := .recv, mode := .oneOfTwoFiveSix, drop := 0#9 } c
  else if r.drop = 3#9 then
    continueWith { r with phase := .recv, mode := .oneOfFour, drop := 0#9 } c
  else rtError .rtSofPattern r c

/-- End of a OneOfFour data group (R112): two more bits, and at eight of them a byte. -/
def rtPairGroupEnd (maxBytes : Nat) (r : RtState) (c : Ctl) : FeedResult RtState :=
  if r.drop = 0#9 then rtError .noDrop r c
  else
    let v : Byte := (r.drop - 1#9).setWidth 8
    let sr := (r.sr >>> 2) ||| (v <<< 6)
    let bits := r.bits.toNat + 2
    if bits = 8 then
      match rtAppend maxBytes sr { r with drop := 0#9, sr := sr } with
      | (r', false) => continueWith r' c
      | (r', true) => continueWith { r' with sr := 0#8, bits := 0#3 } c
    else continueWith { r with drop := 0#9, sr := sr, bits := BitVec.ofNat 3 bits } c

/-- End of a OneOfTwoFiveSix data group (R113): the slot index is the byte. -/
def rtByteGroupEnd (maxBytes : Nat) (r : RtState) (c : Ctl) : FeedResult RtState :=
  if r.drop = 0#9 then rtError .noDrop r c
  else
    let v : Byte := (r.drop - 1#9).setWidth 8
    continueWith (rtAppend maxBytes v { r with drop := 0#9 }).1 c

/-- Group end (R110): with N slots examined the group is evaluated by phase and mode. -/
def rtGroupEnd (maxBytes : Nat) (r : RtState) (c : Ctl) : FeedResult RtState :=
  if r.slot.toNat < r.mode.slots then continueWith r c
  else
    let r := { r with slot := 0#9 }
    match r.phase, r.mode with
    | .recv, .oneOfFour => rtPairGroupEnd maxBytes r c
    | .recv, .oneOfTwoFiveSix => rtByteGroupEnd maxBytes r c
    | .soc, _ => rtSofGroupEnd r c
    | .unsync, _ => rtSofGroupEnd r c

/-- `RT_SecondHalf(dropped)` (R109): the drop's slot is recorded, then the group's end is examined (R110). -/
def rtSecondHalf (maxBytes : Nat) (dropped : Bool) (r : RtState) (c : Ctl) : FeedResult RtState :=
  let r := { r with slot := r.slot + 1#9 }
  if dropped then
    if r.drop ≠ 0#9 then rtError .double r c
    else rtGroupEnd maxBytes { r with drop := r.slot } c
  else rtGroupEnd maxBytes r c

/-- `RT_FEED(s)` on the decoder and the control unit (R120): the window, then the search while UNSYNC, else
the measurement of one half. -/
def rtFeed (maxBytes : Nat) (s : Nib) (r : RtState) (c : Ctl) : FeedResult RtState :=
  let w := rtWindow r.prev s
  let r := { r with prev := s }
  if r.phase = .unsync then continueWith (rtSearch w r) c
  else
    let dropped := droppedAt w r.p.toNat
    if r.half then rtSecondHalf maxBytes dropped { r with half := false } c
    else rtFirstHalf dropped { r with half := true } c

/-- RT_FEED (R120). -/
def execRtFeed (x : Nib) (s : State) : Host.Outcome State Fault Refusal :=
  .next (s.takeRt (rtFeed s.params.maxFrameBytes x s.rt s.ctl))

/-- RT_RESET (R121): the silent reset; the latch and every stored STATUS bit are kept. -/
def execRtReset (s : State) : Host.Outcome State Fault Refusal :=
  .next { s.answer .nothing with rt := s.rt.goUnsync none }

/-- RT_READ (R122): the latch with its done and ovr bits, which the read clears. -/
def execRtRead (s : State) : Host.Outcome State Fault Refusal :=
  .next { s.answer (.frame s.ctl.rtOut s.ctl.rtDone s.ctl.rtOvr) with ctl := s.ctl.clearRt }

end Sys2Proof.Machine
end

