-- ==== Sys2Proof/Machine/Dispatch.lean ====
section
/-!
DEFINITION. `exec`: one arm per command of 30_encoding.md R85, each a direct call of its meaning.
-/

namespace Sys2Proof.Machine

def exec (i : Instr) (s : State) : Host.Outcome State Fault Refusal :=
  match i with
  | .rtFeed x => Sys2Proof.Machine.execRtFeed x s
  | .trFeed x => Sys2Proof.Machine.execTrFeed x s
  | .rtReset => Sys2Proof.Machine.execRtReset s
  | .trReset => Sys2Proof.Machine.execTrReset s
  | .blkReset => Sys2Proof.Machine.execBlkReset s
  | .encRt l => Sys2Proof.Machine.execEncRt l s
  | .encTr l => Sys2Proof.Machine.execEncTr l s
  | .encTrSof => Sys2Proof.Machine.execEncTrSof s
  | .crcCompute l => Sys2Proof.Machine.execCrcCompute l s
  | .crcCheckL l => Sys2Proof.Machine.execCrcCheckL l s
  | .crcCheckRt => Sys2Proof.Machine.execCrcCheckRt s
  | .crcCheckTr => Sys2Proof.Machine.execCrcCheckTr s
  | .rtRead => Sys2Proof.Machine.execRtRead s
  | .trRead => Sys2Proof.Machine.execTrRead s
  | .statusRead => Sys2Proof.Machine.execStatusRead s

end Sys2Proof.Machine
end

