-- ==== Sys2Proof/Machine/Step.lean ====
section
/-!
DEFINITION. One step of the machine: the next command of the host's stream, decoded and run to completion
(20_memory.md R71), or refused (60_exceptions.md R262). With no command issued the block holds its state (R275).
-/

namespace Sys2Proof.Machine

/-- The state in which the block has taken the next command from the host: the rest of the stream remains. -/
def State.withStream (rest : List Command) (s : State) : State := { s with stream := rest }

/-- One step. It never faults and never stops: a refused command changes no unit, sets the refusal mark, and
the next command runs normally (R262; log entry 3). -/
def step (s : State) : Host.Outcome State Fault Refusal :=
  match s.stream with
  | [] => .next s
  | c :: rest =>
    match decode s.params c with
    | .ok i => exec i (s.withStream rest)
    | .error cause => .next ((s.withStream rest).refuse cause)

/-- `s` with the command of a table word as the next one the host issues (log entries 1 and 5). -/
def State.withFetchWord (s : State) (nbits w : Nat) : State :=
  s.withStream (commandOfWord nbits w :: s.stream)

end Sys2Proof.Machine
end

