-- ==== Sys2Proof/Safety.lean ====
section
/-!
DEFINITION. The terms the statements use: which raw commands the spec reserves, which result each command
hands back, what a half measures and a bit period spells, the state a silent reset leaves, a run of several
commands, the legal states of each unit (10_state.md R24 to R46, R52), and a safe run, which is one whose
refusal mark is clear (60_exceptions.md R262). Each is written from the spec's words, beside the model and not
by calling it.
-/

namespace Sys2Proof.Machine

/-! ## Raw commands -/

/-- The reserved command bytes, range by range as R86 lists them. -/
def reservedByte (b : Byte) : Bool :=
  let n := b.toNat
  decide (n ≤ 0x0F) || decide (0x30 ≤ n ∧ n ≤ 0x3F) || decide (0x43 ≤ n ∧ n ≤ 0x4F)
    || decide (0x53 ≤ n ∧ n ≤ 0x5F) || decide (0x61 ≤ n ∧ n ≤ 0x63) || decide (0x67 ≤ n ∧ n ≤ 0x6F)
    || decide (0x73 ≤ n ∧ n ≤ 0x7F) || decide (0x80 ≤ n)

/-- The command bytes a list operand follows (R88). -/
def listByte (b : Byte) : Bool := decide (b ∈ [0x50#8, 0x51#8, 0x60#8, 0x64#8])

/-- The command bytes of the CRC-16 checker (R87). -/
def crcCommandByte (b : Byte) : Bool := decide (b ∈ [0x60#8, 0x64#8, 0x65#8, 0x66#8])

/-- The state after a refused command: nothing but the mark and the refusal handed back (R262, R252). -/
def refusedWith (cause : RefusalCause) (s : State) : State :=
  { s with refusalMark := true, results := .refused cause :: s.results }

/-- The table of R252: which result each command hands back when it is not refused. -/
def isResultOf : Instr → Result → Bool
  | .rtFeed _, .feed _ | .trFeed _, .feed _ => true
  | .rtReset, .nothing | .trReset, .nothing | .blkReset, .nothing => true
  | .encRt _, .samples _ | .encTr _, .samples _ | .encTrSof, .samples _ => true
  | .crcCompute _, .crcBytes _ _ => true
  | .crcCheckL _, .ok _ | .crcCheckRt, .ok _ | .crcCheckTr, .ok _ => true
  | .rtRead, .frame _ _ _ | .trRead, .frame _ _ _ => true
  | .statusRead, .status _ => true
  | _, _ => false

/-- The commands that may touch the R→T decoder (R53). -/
def touchesRt : Instr → Bool
  | .rtFeed _ | .rtReset | .rtRead | .blkReset | .statusRead => true
  | .trFeed _ | .trReset | .trRead | .encRt _ | .encTr _ | .encTrSof
  | .crcCompute _ | .crcCheckL _ | .crcCheckRt | .crcCheckTr => false

/-- The commands that may touch the T→R decoder (R53). -/
def touchesTr : Instr → Bool
  | .trFeed _ | .trReset | .trRead | .blkReset | .statusRead => true
  | .rtFeed _ | .rtReset | .rtRead | .encRt _ | .encTr _ | .encTrSof
  | .crcCompute _ | .crcCheckL _ | .crcCheckRt | .crcCheckTr => false

/-! ## What a feed measures -/

/-- `W[RT.p] = 0`, with `W` the previous sample above the current one (R101, R106). -/
def rtHalfDropped (r : RtState) (x : Nib) : Bool := !(r.prev ++ x).getLsbD r.p.toNat

/-- Modulation at the sync sub-sample of the oldest sample or at the next later one (R155): in the eight
sub-samples of the two oldest samples, those are the places `TR.j + 4` and `TR.j + 3`. -/
def trHalfModulated (t : TrState) : Bool :=
  (t.w0 ++ t.w1).getLsbD (t.j.toNat + 4) || (t.w0 ++ t.w1).getLsbD (t.j.toNat + 3)

/-- The symbol a bit period spells, from the recorded first half and the measured second (R157). -/
abbrev PeriodSymbol (firstHalf : TrSub) (m : Bool) (y : TrSub) : Prop :=
  (firstHalf = .first ∧ m = true ∧ y = .both) ∨ (firstHalf = .none ∧ m = true ∧ y = .second)
    ∨ (firstHalf = .first ∧ m = false ∧ y = .first) ∨ (firstHalf = .none ∧ m = false ∧ y = .none)

/-! ## The state a silent reset leaves -/

/-- The R→T decoder after `RT_GoUnsync` in an RT_FEED of `x` (R101, R116). -/
def rtSilentReset (x : Nib) (r : RtState) : RtState :=
  { prev := x, high := 0#4, phase := .unsync, mode := .oneOfFour, p := r.p, sph := r.sph, half := false
    slot := 0#9, drop := 0#9, sr := 0#8, bits := 0#3, buf := [] }

/-- The T→R decoder after the window shift of a TR_FEED of `x` (R151). -/
def trShifted (x : Nib) (t : TrState) : TrState := { t with w0 := t.w1, w1 := t.w2, w2 := x }

/-- The T→R decoder after `TR_GoUnsync` in a TR_FEED of `x` (R151, R168). -/
def trSilentReset (x : Nib) (t : TrState) : TrState :=
  { w0 := t.w1, w1 := t.w2, w2 := x, warm := t.warm, phase := .unsync, j := t.j, half := false, sub := .none
    sr := 0#8, bc := 0#4, buf := [] }

/-- The control unit after an R→T completion that hands over `bytes` (R115). -/
def rtLatched (bytes : List Byte) (sph : BitVec 2) (c : Ctl) : Ctl :=
  { c with
    rtOvr := c.rtDone || c.rtOvr
    rtOut := { bytes := bytes, tb := 0#3, par := parity bytes, sph := sph }
    rtDone := true }

/-- The control unit after a T→R completion that hands over `bytes` with `tb` trailing bits (R166). -/
def trLatched (bytes : List Byte) (tb : BitVec 3) (c : Ctl) : Ctl :=
  { c with
    trOvr := c.trDone || c.trOvr
    trOut := { bytes := bytes, tb := tb, par := parity bytes, sph := 0#2 }
    trDone := true }

/-! ## Runs -/

/-- Commands issued one after the other, each on the state the one before it left (R71). -/
def runInstrs : List Instr → State → Host.Outcome State Fault Refusal
  | [], s => .next s
  | i :: rest, s =>
    match exec i s with
    | .next t => runInstrs rest t
    | .fault r => .fault r
    | .refused r => .refused r

/-- The results, the newest first, after `n` feeds that returned CONTINUE and then one that returned
COMPLETED. -/
def continueThenComplete (n : Nat) (earlier : List Result) : List Result :=
  .feed true :: (List.replicate n (.feed false) ++ earlier)

/-! ## Legal states -/

/-- The R→T decoder in a legal state (R24 to R34, R52). -/
abbrev RtState.Legal (maxBytes : Nat) (r : RtState) : Prop :=
  r.high.toNat ≤ 8 ∧ 3 ≤ r.p.toNat ∧ r.slot.toNat < (if r.mode = .oneOfFour then 4 else 256)
    ∧ (r.drop ≠ 0#9 → r.drop.toNat ≤ r.slot.toNat) ∧ (r.bits = 0#3 ∨ r.bits = 2#3 ∨ r.bits = 4#3 ∨ r.bits = 6#3)
    ∧ r.buf.length ≤ maxBytes
    ∧ (r.phase = .unsync →
        r.mode = .oneOfFour ∧ r.half = false ∧ r.slot = 0#9 ∧ r.drop = 0#9 ∧ r.sr = 0#8 ∧ r.bits = 0#3 ∧ r.buf = [])
    ∧ (r.phase = .soc → r.mode = .oneOfFour ∧ r.sr = 0#8 ∧ r.bits = 0#3 ∧ r.buf = [])
    ∧ (r.phase ≠ .unsync → r.high = 8#4 ∧ r.sph.toNat = r.p.toNat % 4)
    ∧ (r.mode = .oneOfTwoFiveSix → r.bits = 0#3 ∧ r.sr = 0#8)

/-- The T→R decoder in a legal state (R36 to R43, R52). -/
abbrev TrState.Legal (maxBytes : Nat) (t : TrState) : Prop :=
  t.bc.toNat ≤ 8 ∧ t.buf.length ≤ maxBytes ∧ (t.warm.toNat < 3 → t.phase = .unsync)
    ∧ (t.phase = .unsync → t.half = false ∧ t.sub = .none ∧ t.bc = 0#4 ∧ t.buf = [])
    ∧ (t.phase = .soc1 → t.half = true ∧ t.sub = .first)
    ∧ (t.phase = .soc2 → t.half = true ∧ t.sub = .none)
    ∧ (t.phase = .soc1 ∨ t.phase = .soc2 ∨ t.phase = .soc3 ∨ t.phase = .sofc ∨ t.phase = .errw →
        t.bc = 0#4 ∧ t.buf = [])
    ∧ (t.bc = 0#4 → t.sr = 0#8)
    ∧ (t.phase = .data → 1 ≤ t.bc.toNat)
    ∧ (t.half = true → t.sub = .first ∨ t.sub = .none)

/-- The control unit in a legal state (R10, R44 to R46): latched frames have one parity bit per byte, no R→T
frame is partial, the last byte of a partial T→R frame holds only its received bits, no T→R frame has a phase,
and an overrun bit stands only beside its done bit. -/
abbrev Ctl.Legal (maxBytes : Nat) (c : Ctl) : Prop :=
  c.rtOut.tb = 0#3 ∧ c.rtOut.bytes.length ≤ maxBytes ∧ c.rtOut.par = parity c.rtOut.bytes
    ∧ c.trOut.sph = 0#2 ∧ c.trOut.bytes.length ≤ maxBytes ∧ c.trOut.par = parity c.trOut.bytes
    ∧ (c.trOut.tb ≠ 0#3 →
        c.trOut.bytes ≠ [] ∧ (c.trOut.bytes.getLastD 0#8).toNat < 2 ^ c.trOut.tb.toNat)
    ∧ (c.rtOvr = true → c.rtDone = true) ∧ (c.trOvr = true → c.trDone = true)

/-- The machine in a legal state: legal parameters (R5), each unit in a legal state, and CRC_OK clear where
there is no CRC unit (R87). -/
abbrev State.Inv (s : State) : Prop :=
  s.params.Legal ∧ s.rt.Legal s.params.maxFrameBytes ∧ s.tr.Legal s.params.maxFrameBytes
    ∧ s.ctl.Legal s.params.maxFrameBytes ∧ (s.params.hasCrc = false → s.ctl.crcOk = false)

/-- A safe run: no command of it has been refused (R262). -/
abbrev State.Safe (s : State) : Prop := s.refusalMark = false

end Sys2Proof.Machine
end

