-- ==== Sys2Proof/Certificates/Slice0/Obligations.lean ====
section
/-!
DEFINITION. The statements for the provers. Each docstring names the rule of spec/ it formalises. A statement
that a half "measures" a drop or modulation, or that a bit period spells a symbol, uses the predicates of
Sys2Proof/Safety.lean, which are written from R106, R155 and R157 and do not call the decoders.
-/

open Sys2Proof Sys2Proof.Machine

/-! ## The command encoding -/

/-- 30_encoding.md R80 to R88: the decoder accepts a raw command as an instruction exactly when the instruction
is well-formed and the raw command is its encoding. -/
def Obligations.DecodeAcceptsExactlyTheEncodings : Prop :=
  ∀ (p : Params) (c : Command) (i : Instr),
    decode p c = .ok i ↔ (i.wellFormed p = true ∧ c = encode i)

/-- 30_encoding.md R81, R82, R83, R85: words written out from the map of R85 decode to the commands they stand
for. -/
def Obligations.CommandWordsDecodeAsTheMapSays : Prop :=
  decode Params.hardware { cmd := 0b00011010#8, list := none } = .ok (.rtFeed 0xA#4)
    ∧ decode Params.hardware { cmd := 0b00100101#8, list := none } = .ok (.trFeed 0x5#4)
    ∧ decode Params.hardware { cmd := 0b01000010#8, list := none } = .ok .blkReset
    ∧ decode Params.hardware { cmd := 0b01010001#8, list := some [0x0A#8] } = .ok (.encTr [0x0A#8])
    ∧ decode Params.hardware { cmd := 0b01100100#8, list := some [] } = .ok (.crcCheckL [])
    ∧ decode Params.hardware { cmd := 0b01110010#8, list := none } = .ok .statusRead

/-- 30_encoding.md R86: the reserved bytes are the ranges the rule lists, whatever list comes with them, and a
reserved command changes no unit and is recorded as refused. What the step clause says beyond R86 is the
model's: that the record is the refusal mark and the refusal with its cause among the results (log entry 3,
DEDUCED), and that the command leaves the stream (log entry 1, DESIGN CHOICE). -/
def Obligations.ReservedCommandIsRefusedAndChangesNoUnit : Prop :=
  (∀ (p : Params) (c : Command), decode p c = .error .reserved ↔ reservedByte c.cmd = true)
    ∧ ∀ (s : State) (c : Command) (rest : List Command),
        s.stream = c :: rest → reservedByte c.cmd = true →
          step s = .next { refusedWith .reserved s with stream := rest }

/-- 60_exceptions.md R262: the four refusals, checked in this order; a refused command changes no unit and sets
the refusal mark; no later command clears the mark. That the refusal is listed with its cause among the results,
where R262 says that none is returned, is the model's (log entry 3, DEDUCED), and so is the stream the command
leaves (log entry 1, DESIGN CHOICE). -/
def Obligations.RefusalsAreCheckedInOrderAndTheMarkStays : Prop :=
  (∀ (s : State) (c : Command) (rest : List Command), s.stream = c :: rest →
    (reservedByte c.cmd = true →
      step s = .next { refusedWith .reserved s with stream := rest })
    ∧ (reservedByte c.cmd = false → crcCommandByte c.cmd = true → s.params.hasCrc = false →
      step s = .next { refusedWith .noCrc s with stream := rest })
    ∧ (reservedByte c.cmd = false → (crcCommandByte c.cmd = true → s.params.hasCrc = true) →
        (listByte c.cmd = true ↔ c.list = none) →
      step s = .next { refusedWith .shape s with stream := rest })
    ∧ (∀ l, c.list = some l → listByte c.cmd = true →
        (crcCommandByte c.cmd = true → s.params.hasCrc = true) → s.params.maxListBytes < l.length →
      step s = .next { refusedWith .listTooLong s with stream := rest }))
  ∧ ∀ s t : State, step s = .next t → ¬ s.Safe → ¬ t.Safe

/-- The converse of 60_exceptions.md R262, an inference of the model (log entry 3): a command that decodes runs
without touching the refusal mark, so only a refused command sets it. -/
def Obligations.OnlyRefusedCommandsSetTheMark : Prop :=
  ∀ (s t : State) (c : Command) (rest : List Command) (i : Instr),
    s.stream = c :: rest → decode s.params c = .ok i → step s = .next t → t.refusalMark = s.refusalMark

/-- 30_encoding.md R87: without the CRC unit its four commands are refused whatever their operand, and CRC_OK
stays 0. R87 fixes HAS_CRC alone for the life of the block; that no step changes any parameter rests on
70_reset_and_hazards.md R297 and is the model's (log entry 4, DESIGN CHOICE). The refusal among the results is
the model's too (log entry 3, DEDUCED), and so is the stream (log entry 1, DESIGN CHOICE). -/
def Obligations.WithoutCrcUnitCommandsAreRefusedAndCrcOkStaysClear : Prop :=
  (∀ (p : Params) (c : Command), p.hasCrc = false → crcCommandByte c.cmd = true →
      decode p c = .error .noCrc)
  ∧ (∀ (s : State) (c : Command) (rest : List Command), s.params.hasCrc = false → s.stream = c :: rest →
      crcCommandByte c.cmd = true → step s = .next { refusedWith .noCrc s with stream := rest })
  ∧ (∀ s t : State, step s = .next t → t.params = s.params)
  ∧ ∀ s t : State, s.params.hasCrc = false → s.ctl.crcOk = false → step s = .next t → t.ctl.crcOk = false

/-! ## The step -/

/-- 20_memory.md R71 with 30_encoding.md R80: where the host's next command decodes to an instruction, a step
takes that command from the stream and runs the instruction. (The stream is the model's choice: log entry 1.) -/
def Obligations.StepRunsTheNextDecodedCommand : Prop :=
  ∀ (s : State) (c : Command) (rest : List Command) (i : Instr),
    s.stream = c :: rest → decode s.params c = .ok i → step s = exec i { s with stream := rest }

/-- 60_exceptions.md R275: with no command issued the block holds its state. (That such a step answers the same
state is the model's choice: log entry 2.) -/
def Obligations.IdleStepHoldsTheState : Prop :=
  ∀ s : State, s.stream = [] → step s = .next s

/-- 60_exceptions.md R260, R263: no step faults or is refused. 44_control.md R252: one result is added for each
command. That one is added for a refused command too, where 60_exceptions.md R262 says that it returns none, is
the model's (log entry 3, DEDUCED). That the step takes one command from a stream (log entry 1, DESIGN CHOICE),
that it adds no result with no command issued (log entry 2, DEDUCED), and that it writes no parameter
(70_reset_and_hazards.md R297; log entry 4, DESIGN CHOICE), are the model's. Which result it is,
EveryCommandReturnsTheResultOfItsRow says. -/
def Obligations.EveryStepAnswersAndHandsBackOneResult : Prop :=
  ∀ s : State, ∃ t, step s = .next t ∧ t.stream = s.stream.tail ∧ t.params = s.params
    ∧ (s.stream = [] → t.results = s.results)
    ∧ (s.stream ≠ [] → ∃ r, t.results = r :: s.results)

/-- 44_control.md R252: a refused command returns the refusal and nothing else; every other command returns the
result of its row. That exec of an instruction that is not well-formed, which the decoder never yields, answers
as a refused command does is the model's (log entry 3, DEDUCED), and so is the list of results (log entry 1,
DESIGN CHOICE). -/
def Obligations.EveryCommandReturnsTheResultOfItsRow : Prop :=
  (∀ (i : Instr) (s : State), ∃ r t, exec i s = .next t ∧ t.results = r :: s.results
    ∧ (i.wellFormed s.params = true → isResultOf i r = true)
    ∧ (i.wellFormed s.params = false → ∃ cause, r = .refused cause ∧ t = refusedWith cause s))
  ∧ ∀ (s : State) (c : Command) (rest : List Command) (cause : RefusalCause),
      s.stream = c :: rest → decode s.params c = .error cause →
        ∃ t, step s = .next t ∧ t.results = .refused cause :: s.results

/-! ## Reset -/

/-- 70_reset_and_hazards.md R290: power-on reset leaves every field at the value of the rule's table, and
BLK_RESET writes the same values. -/
def Obligations.PowerOnLeavesTheTableValues : Prop :=
  State.reset.rt =
      { prev := 0xF#4, high := 0#4, phase := .unsync, mode := .oneOfFour, p := 7#3, sph := 0#2, half := false
        slot := 0#9, drop := 0#9, sr := 0x00#8, bits := 0#3, buf := [] }
    ∧ State.reset.tr =
      { w0 := 0x0#4, w1 := 0x0#4, w2 := 0x0#4, warm := 0#2, phase := .unsync, j := 3#2, half := false, sub := .none
        sr := 0x00#8, bc := 0#4, buf := [] }
    ∧ State.reset.ctl =
      { rtOut := { bytes := [], tb := 0#3, par := [], sph := 0#2 }
        trOut := { bytes := [], tb := 0#3, par := [], sph := 0#2 }
        rtDone := false, trDone := false, crcOk := false, rtOvr := false, trOvr := false }
    ∧ State.reset.refusalMark = false
    ∧ ∀ s t : State, exec .blkReset s = .next t →
        t.rt = State.reset.rt ∧ t.tr = State.reset.tr ∧ t.ctl = State.reset.ctl

/-- 44_control.md R250: BLK_RESET, command byte 0x42, puts every field of the three units at its power-on value
and keeps everything else, the refusal mark too (R291); STATUS then reads 0. -/
def Obligations.BlkResetRestoresThePowerOnState : Prop :=
  (∀ p, decode p { cmd := 0x42#8, list := none } = .ok .blkReset)
  ∧ ∀ s : State,
      let t : State :=
        { s with
          rt := { prev := 0xF#4, high := 0#4, phase := .unsync, mode := .oneOfFour, p := 7#3, sph := 0#2, half := false
                  slot := 0#9, drop := 0#9, sr := 0x00#8, bits := 0#3, buf := [] }
          tr := { w0 := 0x0#4, w1 := 0x0#4, w2 := 0x0#4, warm := 0#2, phase := .unsync, j := 3#2, half := false
                  sub := .none, sr := 0x00#8, bc := 0#4, buf := [] }
          ctl := { rtOut := { bytes := [], tb := 0#3, par := [], sph := 0#2 }
                   trOut := { bytes := [], tb := 0#3, par := [], sph := 0#2 }
                   rtDone := false, trDone := false, crcOk := false, rtOvr := false, trOvr := false }
          results := .nothing :: s.results }
      exec .blkReset s = .next t ∧ statusByte t.rt t.tr t.ctl = 0x00#8

/-- 40_ppm_decoder.md R121, R116: RT_RESET, command byte 0x40, is the silent reset of the R→T decoder alone;
RT_SYNC then reads 0. -/
def Obligations.RtResetIsTheSilentResetAlone : Prop :=
  (∀ p, decode p { cmd := 0x40#8, list := none } = .ok .rtReset)
  ∧ ∀ s : State,
      let t : State :=
        { s with
          rt := { s.rt with
                  phase := .unsync, high := 0#4, mode := .oneOfFour, half := false
                  slot := 0#9, drop := 0#9, sr := 0#8, bits := 0#3, buf := [] }
          results := .nothing :: s.results }
      exec .rtReset s = .next t ∧ (statusByte t.rt t.tr t.ctl).getLsbD 5 = false

/-- 41_manchester_decoder.md R176, R168: TR_RESET, command byte 0x41, is the silent reset of the T→R decoder
alone; the sample window is kept; TR_SYNC then reads 0. -/
def Obligations.TrResetIsTheSilentResetAlone : Prop :=
  (∀ p, decode p { cmd := 0x41#8, list := none } = .ok .trReset)
  ∧ ∀ s : State,
      let t : State :=
        { s with
          tr := { s.tr with phase := .unsync, half := false, sub := .none, sr := 0#8, bc := 0#4, buf := [] }
          results := .nothing :: s.results }
      exec .trReset s = .next t ∧ (statusByte t.rt t.tr t.ctl).getLsbD 6 = false

/-! ## The R→T decoder -/

/-- 40_ppm_decoder.md R102, R103, R104, R105: an RT_FEED while UNSYNC examines the previous sample. Without a
drop it raises the high count to at most 8; a drop too soon clears the count; a drop after 8 enters SOC at the
earliest dropped sub-sample `i`, or at the next later one where that is dropped too. -/
def Obligations.RtSearchCountsHighSamplesAndEntersSync : Prop :=
  ∀ (s : State) (x : Nib), s.rt.phase = .unsync →
    (s.rt.prev = 0xF#4 →
      exec (.rtFeed x) s = .next { s with
        rt := { s.rt with prev := x, high := BitVec.ofNat 4 (min (s.rt.high.toNat + 1) 8) }
        results := .feed false :: s.results })
    ∧ (s.rt.prev ≠ 0xF#4 → s.rt.high.toNat < 8 →
      exec (.rtFeed x) s = .next { s with
        rt := { s.rt with prev := x, high := 0#4 }
        results := .feed false :: s.results })
    ∧ (∀ i : Nat, i < 4 → s.rt.prev.getLsbD i = false → (∀ k, i < k → k < 4 → s.rt.prev.getLsbD k = true) →
        8 ≤ s.rt.high.toNat →
        let q : Nat := if (s.rt.prev ++ x).getLsbD (i + 3) = false then i + 3 else i + 4
        exec (.rtFeed x) s = .next { s with
          rt := { prev := x, high := s.rt.high, phase := .soc, mode := .oneOfFour
                  p := BitVec.ofNat 3 q, sph := BitVec.ofNat 2 (q % 4), half := true
                  slot := 0#9, drop := 0#9, sr := 0#8, bits := 0#3, buf := [] }
          results := .feed false :: s.results })

/-- 40_ppm_decoder.md R108, R115: an RT_FEED that measures a first half. With no drop, or with a drop in SOC
after another number of slots than one, only the half is counted; a drop after exactly one slot completes the
frame in RECV and is a framing error in SOC; any other drop in RECV is a framing error. -/
def Obligations.RtFirstHalfCompletesResetsOrCounts : Prop :=
  ∀ (s : State) (x : Nib), s.rt.phase ≠ .unsync → s.rt.half = false →
    (rtHalfDropped s.rt x = false ∨ (s.rt.phase = .soc ∧ s.rt.slot ≠ 1#9) →
      exec (.rtFeed x) s = .next { s with
        rt := { s.rt with prev := x, half := true }
        results := .feed false :: s.results })
    ∧ (rtHalfDropped s.rt x = true → s.rt.slot = 1#9 → s.rt.phase = .recv →
      exec (.rtFeed x) s = .next { s with
        rt := rtSilentReset x s.rt
        ctl := rtLatched s.rt.buf s.rt.sph s.ctl
        results := .feed true :: s.results })
    ∧ (rtHalfDropped s.rt x = true → (s.rt.slot = 1#9 ↔ s.rt.phase = .soc) →
      exec (.rtFeed x) s = .next { s with
        rt := rtSilentReset x s.rt
        results := .feed false :: s.results })

/-- 40_ppm_decoder.md R109, R110: an RT_FEED that measures a second half counts the slot. A second drop in one
group is a framing error; short of the group's end a drop is recorded as its slot. -/
def Obligations.RtSecondHalfCountsTheSlotAndRecordsTheDrop : Prop :=
  ∀ (s : State) (x : Nib), s.rt.phase ≠ .unsync → s.rt.half = true →
    (rtHalfDropped s.rt x = true → s.rt.drop ≠ 0#9 →
      exec (.rtFeed x) s = .next { s with
        rt := rtSilentReset x s.rt
        results := .feed false :: s.results })
    ∧ ((rtHalfDropped s.rt x = true → s.rt.drop = 0#9) →
        s.rt.slot.toNat + 1 < (if s.rt.mode = .oneOfFour then 4 else 256) →
      exec (.rtFeed x) s = .next { s with
        rt := { s.rt with
                prev := x, half := false, slot := s.rt.slot + 1#9
                drop := if rtHalfDropped s.rt x then s.rt.slot + 1#9 else s.rt.drop }
        results := .feed false :: s.results })

/-- 40_ppm_decoder.md R111: at the end of the SOF group the slot of its one second-half drop selects the mode:
slot 3 OneOfFour, slot 4 OneOfTwoFiveSix; any other pattern is a framing error. -/
def Obligations.RtSofGroupSelectsTheMode : Prop :=
  ∀ (s : State) (x : Nib), s.rt.phase = .soc → s.rt.mode = .oneOfFour → s.rt.half = true → s.rt.slot = 3#9 →
    (rtHalfDropped s.rt x = true → s.rt.drop = 0#9) →
    let d : BitVec 9 := if rtHalfDropped s.rt x then 4#9 else s.rt.drop
    (d = 4#9 →
      exec (.rtFeed x) s = .next { s with
        rt := { s.rt with
                prev := x, half := false, slot := 0#9, drop := 0#9, phase := .recv, mode := .oneOfTwoFiveSix }
        results := .feed false :: s.results })
    ∧ (d = 3#9 →
      exec (.rtFeed x) s = .next { s with
        rt := { s.rt with
                prev := x, half := false, slot := 0#9, drop := 0#9, phase := .recv, mode := .oneOfFour }
        results := .feed false :: s.results })
    ∧ (d ≠ 4#9 → d ≠ 3#9 →
      exec (.rtFeed x) s = .next { s with
        rt := rtSilentReset x s.rt
        results := .feed false :: s.results })

/-- 40_ppm_decoder.md R112, R114: at the end of a OneOfFour data group a group with no drop is a framing error;
a drop in slot k shifts the two bits of k - 1 in from the top; the fourth group of a byte appends it, or
overflows a full buffer. -/
def Obligations.RtPairGroupShiftsInTwoBits : Prop :=
  ∀ (s : State) (x : Nib), s.rt.phase = .recv → s.rt.mode = .oneOfFour → s.rt.half = true → s.rt.slot = 3#9 →
    (rtHalfDropped s.rt x = true → s.rt.drop = 0#9) → s.rt.drop.toNat ≤ 4 →
    let d : Nat := if rtHalfDropped s.rt x then 4 else s.rt.drop.toNat
    let sr : Byte := BitVec.ofNat 8 (s.rt.sr.toNat / 4 + 64 * (d - 1))
    (d = 0 →
      exec (.rtFeed x) s = .next { s with
        rt := rtSilentReset x s.rt
        results := .feed false :: s.results })
    ∧ (d ≠ 0 → s.rt.bits.toNat < 6 →
      exec (.rtFeed x) s = .next { s with
        rt := { s.rt with
                prev := x, half := false, slot := 0#9, drop := 0#9, sr := sr, bits := s.rt.bits + 2#3 }
        results := .feed false :: s.results })
    ∧ (d ≠ 0 → s.rt.bits = 6#3 → s.rt.buf.length ≠ s.params.maxFrameBytes →
      exec (.rtFeed x) s = .next { s with
        rt := { s.rt with
                prev := x, half := false, slot := 0#9, drop := 0#9, sr := 0#8, bits := 0#3, buf := s.rt.buf ++ [sr] }
        results := .feed false :: s.results })
    ∧ (d ≠ 0 → s.rt.bits = 6#3 → s.rt.buf.length = s.params.maxFrameBytes →
      exec (.rtFeed x) s = .next { s with
        rt := rtSilentReset x s.rt
        results := .feed false :: s.results })

/-- 40_ppm_decoder.md R113, R114: at the end of a OneOfTwoFiveSix data group a group with no drop is a framing
error; a drop in slot k appends the byte k - 1, or overflows a full buffer. -/
def Obligations.RtByteGroupAppendsTheSlotIndex : Prop :=
  ∀ (s : State) (x : Nib), s.rt.phase = .recv → s.rt.mode = .oneOfTwoFiveSix → s.rt.half = true →
    s.rt.slot = 255#9 → (rtHalfDropped s.rt x = true → s.rt.drop = 0#9) → s.rt.drop.toNat ≤ 256 →
    let d : Nat := if rtHalfDropped s.rt x then 256 else s.rt.drop.toNat
    (d = 0 →
      exec (.rtFeed x) s = .next { s with
        rt := rtSilentReset x s.rt
        results := .feed false :: s.results })
    ∧ (d ≠ 0 → s.rt.buf.length ≠ s.params.maxFrameBytes →
      exec (.rtFeed x) s = .next { s with
        rt := { s.rt with
                prev := x, half := false, slot := 0#9, drop := 0#9, buf := s.rt.buf ++ [BitVec.ofNat 8 (d - 1)] }
        results := .feed false :: s.results })
    ∧ (d ≠ 0 → s.rt.buf.length = s.params.maxFrameBytes →
      exec (.rtFeed x) s = .next { s with
        rt := rtSilentReset x s.rt
        results := .feed false :: s.results })

/-- 40_ppm_decoder.md R117, which the spec marks as its own inference ("derived: from rules R115, R116"), with
R120: an RT_FEED answers COMPLETED exactly on a first-half drop after one slot in RECV, and only then writes the
latch or STATUS; every framing error hands nothing over. -/
def Obligations.RtFeedHandsOverAFrameOnlyAtEndOfCommunication : Prop :=
  ∀ (s : State) (x : Nib), ∃ t, exec (.rtFeed x) s = .next t
    ∧ (s.rt.phase = .recv ∧ s.rt.half = false ∧ s.rt.slot = 1#9 ∧ rtHalfDropped s.rt x = true →
        t.results = .feed true :: s.results ∧ t.ctl = rtLatched s.rt.buf s.rt.sph s.ctl ∧ t.rt.phase = .unsync)
    ∧ (¬ (s.rt.phase = .recv ∧ s.rt.half = false ∧ s.rt.slot = 1#9 ∧ rtHalfDropped s.rt x = true) →
        t.results = .feed false :: s.results ∧ t.ctl = s.ctl)

/-- 10_state.md R53 with 40_ppm_decoder.md R101: every RT_FEED keeps its sample in `RT.prev`, and leaves the T→R
decoder, the T→R latch and flags and CRC_OK unchanged. That it leaves the refusal mark (log entry 3, DEDUCED),
the parameters (log entry 4, DESIGN CHOICE) and the stream (log entry 1, DESIGN CHOICE) is the model's. -/
def Obligations.RtFeedFrame : Prop :=
  ∀ (s : State) (x : Nib), ∃ t, exec (.rtFeed x) s = .next t
    ∧ t.rt.prev = x ∧ t.tr = s.tr ∧ t.ctl.trOut = s.ctl.trOut ∧ t.ctl.trDone = s.ctl.trDone
    ∧ t.ctl.trOvr = s.ctl.trOvr ∧ t.ctl.crcOk = s.ctl.crcOk ∧ t.refusalMark = s.refusalMark
    ∧ t.params = s.params ∧ t.stream = s.stream

/-- 70_reset_and_hazards.md R293, which the spec marks as its own inference: from any UNSYNC state with the high
count clear, 8 idle samples, or 7 where `RT.prev` holds no drop, leave the decoder ready to take the next
sample's successor as a sync candidate. -/
def Obligations.IdleLeadInReadiesTheRtDecoder : Prop :=
  ∀ (s : State) (n : Nat), s.rt.phase = .unsync → s.rt.high = 0#4 →
    (8 ≤ n ∨ (7 ≤ n ∧ s.rt.prev = 0xF#4)) →
    ∃ t, runInstrs (rtIdle n) s = .next t
      ∧ t.rt.phase = .unsync ∧ t.rt.prev = 0xF#4 ∧ 7 ≤ t.rt.high.toNat ∧ t.rt.high.toNat ≤ 8
      ∧ t.ctl = s.ctl ∧ t.tr = s.tr ∧ t.results = List.replicate n (.feed false) ++ s.results

/-- 40_ppm_decoder.md R122: RT_READ, command byte 0x70, hands back the latch with its done and ovr bits, clears
those two bits and changes nothing else. -/
def Obligations.RtReadReturnsTheLatchAndClearsItsFlags : Prop :=
  (∀ p, decode p { cmd := 0x70#8, list := none } = .ok .rtRead)
  ∧ ∀ s : State, exec .rtRead s = .next { s with
      ctl := { s.ctl with rtDone := false, rtOvr := false }
      results := .frame s.ctl.rtOut s.ctl.rtDone s.ctl.rtOvr :: s.results }

/-! ## The T→R decoder -/

/-- 41_manchester_decoder.md R151: every TR_FEED shifts the window; during the warm-up it does no more than
count itself; the count stops at 3, and of the commands only BLK_RESET clears it. -/
def Obligations.TrFeedShiftsTheWindowAndWarmsUp : Prop :=
  (∀ (s : State) (x : Nib), s.tr.warm.toNat < 3 →
    exec (.trFeed x) s = .next { s with
      tr := { trShifted x s.tr with warm := s.tr.warm + 1#2 }
      results := .feed false :: s.results })
  ∧ (∀ (s : State) (x : Nib), ∃ t, exec (.trFeed x) s = .next t
      ∧ t.tr.w0 = s.tr.w1 ∧ t.tr.w1 = s.tr.w2 ∧ t.tr.w2 = x
      ∧ (s.tr.warm = 3#2 → t.tr.warm = 3#2))
  ∧ (∀ (i : Instr) (s t : State), i ≠ .blkReset → (∀ x, i ≠ .trFeed x) → exec i s = .next t →
      t.tr.warm = s.tr.warm)
  ∧ ∀ s : State, ∃ t, exec .blkReset s = .next t ∧ t.tr.warm = 0#2

/-- 41_manchester_decoder.md R152, R153, R154: while UNSYNC the highest sub-sample set in both of the two oldest
samples is the candidate; it is confirmed by the third sample or rejected with no state change, and no other
position is tried. -/
def Obligations.TrSearchConfirmsTheHighestHeldSubSample : Prop :=
  ∀ (s : State) (x : Nib), s.tr.warm = 3#2 → s.tr.phase = .unsync →
    ((∀ k, k < 4 → ¬ (s.tr.w0.getLsbD k = true ∧ s.tr.w1.getLsbD k = true)) →
      exec (.trFeed x) s = .next { s with
        tr := trShifted x s.tr
        results := .feed false :: s.results })
    ∧ ∀ k, k < 4 → s.tr.w0.getLsbD k = true → s.tr.w1.getLsbD k = true →
        (∀ m, k < m → m < 4 → ¬ (s.tr.w0.getLsbD m = true ∧ s.tr.w1.getLsbD m = true)) →
        (s.tr.w2.getLsbD k = false →
          exec (.trFeed x) s = .next { s with
            tr := trShifted x s.tr
            results := .feed false :: s.results })
        ∧ (s.tr.w2.getLsbD k = true →
          exec (.trFeed x) s = .next { s with
            tr := { trShifted x s.tr with
                    j := BitVec.ofNat 2 k, phase := .soc1, half := true, sub := .first
                    sr := 0#8, bc := 0#4, buf := [] }
            results := .feed false :: s.results })

/-- 41_manchester_decoder.md R156: a first half records whether it carried modulation. -/
def Obligations.TrFirstHalfRecordsModulation : Prop :=
  ∀ (s : State) (x : Nib), s.tr.warm = 3#2 → s.tr.phase ≠ .unsync → s.tr.half = false →
    exec (.trFeed x) s = .next { s with
      tr := { trShifted x s.tr with
              half := true, sub := if trHalfModulated s.tr then .first else .none }
      results := .feed false :: s.results }

/-- 41_manchester_decoder.md R158: a bit period with neither half modulated hands over the SOF-only
acknowledgement [0x0F] straight after a complete SOF, and is a framing error in every other phase. -/
def Obligations.TrNeitherHalfAcknowledgesOrResets : Prop :=
  ∀ (s : State) (x : Nib), s.tr.warm = 3#2 → s.tr.phase ≠ .unsync → s.tr.half = true →
    PeriodSymbol s.tr.sub (trHalfModulated s.tr) .none →
    (s.tr.phase = .sofc →
      exec (.trFeed x) s = .next { s with
        tr := trSilentReset x s.tr
        ctl := trLatched [0x0F#8] 0#3 s.ctl
        results := .feed true :: s.results })
    ∧ (s.tr.phase ≠ .sofc →
      exec (.trFeed x) s = .next { s with
        tr := trSilentReset x s.tr
        results := .feed false :: s.results })

/-- 41_manchester_decoder.md R159, R160, R161: the three SOF stages. Stage 1 wants both halves and realigns to a
second half; stages 2 and 3 want the second half only; any other symbol enters ERRW. -/
def Obligations.TrSofStagesAdvanceOrWait : Prop :=
  ∀ (s : State) (x : Nib) (y : TrSub), s.tr.warm = 3#2 → s.tr.half = true → y ≠ .none →
    PeriodSymbol s.tr.sub (trHalfModulated s.tr) y →
    (s.tr.phase = .soc1 → y = .both →
      exec (.trFeed x) s = .next { s with
        tr := { trShifted x s.tr with phase := .soc2, half := true, sub := .none }
        results := .feed false :: s.results })
    ∧ (s.tr.phase = .soc2 → y = .second →
      exec (.trFeed x) s = .next { s with
        tr := { trShifted x s.tr with phase := .soc3, half := false, sub := y }
        results := .feed false :: s.results })
    ∧ (s.tr.phase = .soc3 → y = .second →
      exec (.trFeed x) s = .next { s with
        tr := { trShifted x s.tr with phase := .sofc, half := false, sub := y }
        results := .feed false :: s.results })
    ∧ ((s.tr.phase = .soc1 ∧ y ≠ .both) ∨ (s.tr.phase = .soc2 ∧ y ≠ .second)
          ∨ (s.tr.phase = .soc3 ∧ y ≠ .second) →
      exec (.trFeed x) s = .next { s with
        tr := { trShifted x s.tr with phase := .errw, half := false, sub := y }
        results := .feed false :: s.results })

/-- 41_manchester_decoder.md R162, R163: after the SOF a one-half symbol is shifted in from bit 7, a full byte
that is waiting being flushed first (or overflowing a full buffer); a both-halves period starts the EOF and is
no data bit. -/
def Obligations.TrDataSymbolIsShiftedInAfterTheFlush : Prop :=
  ∀ (s : State) (x : Nib) (y : TrSub), s.tr.warm = 3#2 → s.tr.half = true →
    (s.tr.phase = .sofc ∨ s.tr.phase = .data) → PeriodSymbol s.tr.sub (trHalfModulated s.tr) y →
    let top : Nat := if y = .second then 128 else 0
    (y = .both →
      exec (.trFeed x) s = .next { s with
        tr := { trShifted x s.tr with phase := .eoff, half := false, sub := .both }
        results := .feed false :: s.results })
    ∧ (y = .first ∨ y = .second → s.tr.bc.toNat < 8 →
      exec (.trFeed x) s = .next { s with
        tr := { trShifted x s.tr with
                phase := .data, half := false, sub := y
                sr := BitVec.ofNat 8 (s.tr.sr.toNat / 2 + top), bc := s.tr.bc + 1#4 }
        results := .feed false :: s.results })
    ∧ (y = .first ∨ y = .second → s.tr.bc = 8#4 → s.tr.buf.length ≠ s.params.maxFrameBytes →
      exec (.trFeed x) s = .next { s with
        tr := { trShifted x s.tr with
                phase := .data, half := false, sub := y
                sr := BitVec.ofNat 8 top, bc := 1#4, buf := s.tr.buf ++ [s.tr.sr] }
        results := .feed false :: s.results })
    ∧ (y = .first ∨ y = .second → s.tr.bc = 8#4 → s.tr.buf.length = s.params.maxFrameBytes →
      exec (.trFeed x) s = .next { s with
        tr := trSilentReset x s.tr
        results := .feed false :: s.results })

/-- 41_manchester_decoder.md R164, R166 with 20_memory.md R66: the symbol after the both-halves period ends the
frame. With no symbol received it enters ERRW; with the lead-in alone the frame is byte-aligned; with k data
bits and the lead-in a right-aligned partial byte is appended (or overflows a full buffer) and the trailing bit
count is k. That bits 7..k of that byte are 0 after a lead-in of 1 too is read from R66 and not from the
pseudocode of R164, which does not mask the lead-in (log entry 7, DEDUCED). -/
def Obligations.TrEndOfFrameHandsOverBytesAndTrailingBits : Prop :=
  ∀ (s : State) (x : Nib) (y : TrSub), s.tr.warm = 3#2 → s.tr.half = true → s.tr.phase = .eoff →
    s.tr.bc.toNat ≤ 8 → y ≠ .none → PeriodSymbol s.tr.sub (trHalfModulated s.tr) y →
    (s.tr.buf = [] → s.tr.bc = 0#4 →
      exec (.trFeed x) s = .next { s with
        tr := { trShifted x s.tr with phase := .errw, half := false, sub := y }
        results := .feed false :: s.results })
    ∧ (s.tr.buf ≠ [] ∨ s.tr.bc ≠ 0#4 → s.tr.bc.toNat < 2 →
      exec (.trFeed x) s = .next { s with
        tr := trSilentReset x s.tr
        ctl := trLatched s.tr.buf 0#3 s.ctl
        results := .feed true :: s.results })
    ∧ (2 ≤ s.tr.bc.toNat → s.tr.buf.length ≠ s.params.maxFrameBytes →
      exec (.trFeed x) s = .next { s with
        tr := trSilentReset x s.tr
        ctl := trLatched
                (s.tr.buf ++ [BitVec.ofNat 8 (s.tr.sr.toNat / 2 ^ (8 - s.tr.bc.toNat) % 2 ^ (s.tr.bc.toNat - 1))])
                (BitVec.ofNat 3 (s.tr.bc.toNat - 1)) s.ctl
        results := .feed true :: s.results })
    ∧ (2 ≤ s.tr.bc.toNat → s.tr.buf.length = s.params.maxFrameBytes →
      exec (.trFeed x) s = .next { s with
        tr := trSilentReset x s.tr
        results := .feed false :: s.results })

/-- 41_manchester_decoder.md R165: ERRW lasts exactly one bit period, two TR_FEEDs, whatever they carry; neither
completes a frame, and the decoder is then UNSYNC with nothing assembled. -/
def Obligations.TrErrorWaitLastsOneBitPeriod : Prop :=
  ∀ (s : State) (x y : Nib), s.tr.warm = 3#2 → s.tr.phase = .errw → s.tr.half = false →
    ∃ t u, exec (.trFeed x) s = .next t ∧ t.tr.phase = .errw ∧ t.tr.half = true ∧ t.ctl = s.ctl
      ∧ t.results = .feed false :: s.results
      ∧ exec (.trFeed y) t = .next u ∧ u.tr = trSilentReset y (trShifted x s.tr) ∧ u.ctl = s.ctl
      ∧ u.results = .feed false :: .feed false :: s.results

/-- 41_manchester_decoder.md R169, which the spec marks as its own inference, with R175: a TR_FEED answers
COMPLETED only at the end of a bit period in SOFC or EOFF, and only then writes the latch or STATUS; every
framing error hands nothing over. -/
def Obligations.TrFeedHandsOverAFrameOnlyInSofcOrEoff : Prop :=
  ∀ (s : State) (x : Nib), ∃ t, exec (.trFeed x) s = .next t
    ∧ ((t.results = .feed false :: s.results ∧ t.ctl = s.ctl)
      ∨ (t.results = .feed true :: s.results ∧ s.tr.warm = 3#2 ∧ s.tr.half = true
          ∧ (s.tr.phase = .sofc ∨ s.tr.phase = .eoff) ∧ t.tr = trSilentReset x s.tr
          ∧ ∃ bytes tb, t.ctl = trLatched bytes tb s.ctl))

/-- 10_state.md R53 with 41_manchester_decoder.md R150: every TR_FEED leaves the R→T decoder, the R→T latch and
flags and CRC_OK unchanged. That it leaves the refusal mark (log entry 3, DEDUCED), the parameters (log entry 4,
DESIGN CHOICE) and the stream (log entry 1, DESIGN CHOICE) is the model's. -/
def Obligations.TrFeedFrame : Prop :=
  ∀ (s : State) (x : Nib), ∃ t, exec (.trFeed x) s = .next t
    ∧ t.rt = s.rt ∧ t.ctl.rtOut = s.ctl.rtOut ∧ t.ctl.rtDone = s.ctl.rtDone ∧ t.ctl.rtOvr = s.ctl.rtOvr
    ∧ t.ctl.crcOk = s.ctl.crcOk ∧ t.refusalMark = s.refusalMark ∧ t.params = s.params ∧ t.stream = s.stream

/-- 41_manchester_decoder.md R177: TR_READ, command byte 0x71, hands back the latch with its done and ovr bits,
clears those two bits and changes nothing else. -/
def Obligations.TrReadReturnsTheLatchAndClearsItsFlags : Prop :=
  (∀ p, decode p { cmd := 0x71#8, list := none } = .ok .trRead)
  ∧ ∀ s : State, exec .trRead s = .next { s with
      ctl := { s.ctl with trDone := false, trOvr := false }
      results := .frame s.ctl.trOut s.ctl.trDone s.ctl.trOvr :: s.results }

/-! ## The two decoders together -/

/-- 10_state.md R53: a command that is none of the T→R decoder's, nor BLK_RESET or STATUS_READ, neither reads
nor writes a TR field, and the same of RT: it runs alike on every content of that decoder and leaves it as it
was. -/
def Obligations.DecodersAreIndependent : Prop :=
  (∀ (i : Instr) (s t : State) (u : TrState), touchesTr i = false → exec i s = .next t →
    t.tr = s.tr ∧ exec i { s with tr := u } = .next { t with tr := u })
  ∧ ∀ (i : Instr) (s t : State) (u : RtState), touchesRt i = false → exec i s = .next t →
    t.rt = s.rt ∧ exec i { s with rt := u } = .next { t with rt := u }

/-- 20_memory.md R71, 60_exceptions.md R267: the order of the two feeds of one sample tick does not matter to
either decoder, to the latches or to STATUS; both results are handed back. -/
def Obligations.FeedsOfOneTickCommute : Prop :=
  ∀ (s : State) (x y : Nib), ∃ t u a b,
    runInstrs [.rtFeed x, .trFeed y] s = .next t ∧ runInstrs [.trFeed y, .rtFeed x] s = .next u
    ∧ t.rt = u.rt ∧ t.tr = u.tr ∧ t.ctl = u.ctl ∧ t.refusalMark = u.refusalMark ∧ t.stream = u.stream
    ∧ t.results = .feed b :: .feed a :: s.results ∧ u.results = .feed a :: .feed b :: s.results

/-! ## The frame encoder -/

/-- 42_frame_encoder.md R210 with R202, R203, R204: ENC_RT, command byte 0x50, returns the SOF `0FFFF0FF`, for
each byte its four groups, least significant first, each of four slots with the drop in the slot of the group's
value, and the EOF `FF0F`; it is refused without a list or with one too long, and changes nothing. -/
def Obligations.EncRtReturnsTheSlotWaveform : Prop :=
  (∀ p l, decode p { cmd := 0x50#8, list := none } = .error .shape
    ∧ (l.length ≤ p.maxListBytes → decode p { cmd := 0x50#8, list := some l } = .ok (.encRt l))
    ∧ (p.maxListBytes < l.length → decode p { cmd := 0x50#8, list := some l } = .error .listTooLong))
  ∧ ∀ (s : State) (l : List Byte), l.length ≤ s.params.maxListBytes →
      exec (.encRt l) s = .next { s with
        results := .samples
          ([0x0, 0xF, 0xF, 0xF, 0xF, 0x0, 0xF, 0xF]
            ++ l.flatMap (fun b => (List.range 4).flatMap (fun g => (List.range 4).flatMap (fun k =>
                if k = b.toNat / 4 ^ g % 4 then [0xF, 0x0] else [0xF, 0xF])))
            ++ [0xF, 0xF, 0x0, 0xF]) :: s.results }

/-- 42_frame_encoder.md R211 with R205, R206, R207: ENC_TR, command byte 0x51, returns the SOF `000FFF0F`, for
each byte its eight bits, least significant first, 0 as `F0` and 1 as `0F`, and the EOF `F0FFF000`; it is
refused without a list or with one too long, and changes nothing. -/
def Obligations.EncTrReturnsTheManchesterWaveform : Prop :=
  (∀ p l, decode p { cmd := 0x51#8, list := none } = .error .shape
    ∧ (l.length ≤ p.maxListBytes → decode p { cmd := 0x51#8, list := some l } = .ok (.encTr l))
    ∧ (p.maxListBytes < l.length → decode p { cmd := 0x51#8, list := some l } = .error .listTooLong))
  ∧ ∀ (s : State) (l : List Byte), l.length ≤ s.params.maxListBytes →
      exec (.encTr l) s = .next { s with
        results := .samples
          ([0x0, 0x0, 0x0, 0xF, 0xF, 0xF, 0x0, 0xF]
            ++ l.flatMap (fun b => (List.range 8).flatMap (fun i =>
                if b.toNat / 2 ^ i % 2 = 1 then [0x0, 0xF] else [0xF, 0x0]))
            ++ [0xF, 0x0, 0xF, 0xF, 0xF, 0x0, 0x0, 0x0]) :: s.results }

/-- 42_frame_encoder.md R212 with R205: ENC_TR_SOF, command byte 0x52, returns the preamble `000FFF0F` and
changes nothing; a T→R decoder that is UNSYNC with an unmodulated window decodes it, with five more unmodulated
samples, as the frame [0x0F]. -/
def Obligations.EncTrSofReturnsThePreambleThatDecodesAsTheAck : Prop :=
  (∀ p, decode p { cmd := 0x52#8, list := none } = .ok .encTrSof)
  ∧ (∀ s : State, exec .encTrSof s = .next { s with
      results := .samples [0x0, 0x0, 0x0, 0xF, 0xF, 0xF, 0x0, 0xF] :: s.results })
  ∧ ∀ s : State, s.tr.phase = .unsync → s.tr.w0 = 0#4 → s.tr.w1 = 0#4 → s.tr.w2 = 0#4 →
      ∃ t, runInstrs (trFeeds ([0x0, 0x0, 0x0, 0xF, 0xF, 0xF, 0x0, 0xF] ++ List.replicate 5 0x0)) s = .next t
        ∧ t.ctl = trLatched [0x0F#8] 0#3 s.ctl ∧ t.tr.phase = .unsync
        ∧ t.results = continueThenComplete 12 s.results

/-- 42_frame_encoder.md R209, which the spec marks as its own inference: the lengths of the encoders' outputs,
and the longest with 64-byte lists. -/
def Obligations.EncoderOutputLengths : Prop :=
  (∀ (s : State) (l : List Byte), l.length ≤ s.params.maxListBytes →
    ∃ w v : List Nib, exec (.encRt l) s = .next { s with results := .samples w :: s.results }
      ∧ exec (.encTr l) s = .next { s with results := .samples v :: s.results }
      ∧ w.length = 12 + 32 * l.length ∧ v.length = 16 + 16 * l.length
      ∧ (s.params.maxListBytes = 64 → w.length ≤ 2060 ∧ v.length ≤ 2060))
  ∧ ∀ s : State, ∃ w : List Nib, exec .encTrSof s = .next { s with results := .samples w :: s.results }
      ∧ w.length = 8

/-- 42_frame_encoder.md R208 (a), which the spec marks as its own inference: from a ready R→T decoder, feeding
the samples of ENC_RT sample by sample returns CONTINUE for every sample but the last and hands the same bytes
over on the last, with sph = 2. -/
def Obligations.RtDecoderInvertsEncRt : Prop :=
  ∀ (s : State) (bs : List Byte), bs.length ≤ min s.params.maxListBytes s.params.maxFrameBytes →
    s.rt.phase = .unsync → s.rt.prev = 0xF#4 → 7 ≤ s.rt.high.toNat → s.rt.high.toNat ≤ 8 →
    ∃ w : List Nib, exec (.encRt bs) s = .next { s with results := .samples w :: s.results }
      ∧ ∃ t, runInstrs (rtFeeds w) s = .next t
        ∧ t.results = continueThenComplete (w.length - 1) s.results
        ∧ t.ctl = rtLatched bs 2#2 s.ctl ∧ t.rt.phase = .unsync ∧ t.tr = s.tr

/-- 42_frame_encoder.md R208 (b), which the spec marks as its own inference: from a T→R decoder that is UNSYNC
with an unmodulated window, feeding the samples of ENC_TR returns CONTINUE for each, and one further unmodulated
sample hands the same bytes over. -/
def Obligations.TrDecoderInvertsEncTr : Prop :=
  ∀ (s : State) (bs : List Byte), bs.length ≤ min s.params.maxListBytes s.params.maxFrameBytes →
    s.tr.phase = .unsync → s.tr.w0 = 0#4 → s.tr.w1 = 0#4 → s.tr.w2 = 0#4 →
    ∃ w : List Nib, exec (.encTr bs) s = .next { s with results := .samples w :: s.results }
      ∧ ∃ t, runInstrs (trFeeds (w ++ [0x0])) s = .next t
        ∧ t.results = continueThenComplete w.length s.results
        ∧ t.ctl = trLatched bs 0#3 s.ctl ∧ t.tr.phase = .unsync ∧ t.rt = s.rt

/-- 42_frame_encoder.md R208 (c), which the spec marks as its own inference: a T→R frame cut after the first k
bits of its final byte decodes to those bits right-aligned, with trailing bit count k. -/
def Obligations.TrDecoderRecoversAPartialFinalByte : Prop :=
  ∀ (s : State) (bs : List Byte) (c : Byte) (k : Nat), 1 ≤ k → k ≤ 7 →
    bs.length + 1 ≤ s.params.maxFrameBytes →
    s.tr.phase = .unsync → s.tr.w0 = 0#4 → s.tr.w1 = 0#4 → s.tr.w2 = 0#4 →
    let body : List Byte → List Nib := fun l => l.flatMap (fun b => (List.range 8).flatMap (fun i =>
      if b.toNat / 2 ^ i % 2 = 1 then [0x0, 0xF] else [0xF, 0x0]))
    let w : List Nib := [0x0, 0x0, 0x0, 0xF, 0xF, 0xF, 0x0, 0xF] ++ body bs ++ (body [c]).take (2 * k)
      ++ [0xF, 0x0, 0xF, 0xF, 0xF, 0x0, 0x0, 0x0] ++ [0x0]
    ∃ t, runInstrs (trFeeds w) s = .next t
      ∧ t.results = continueThenComplete (w.length - 1) s.results
      ∧ t.ctl = trLatched (bs ++ [BitVec.ofNat 8 (c.toNat % 2 ^ k)]) (BitVec.ofNat 3 k) s.ctl
      ∧ t.tr.phase = .unsync

/-! ## The CRC-16 checker -/

/-- 43_crc16.md R231: the CRC of a byte list, from the initial value, one byte XORed in and eight shifts at a
time. -/
def Obligations.CrcFoldsEachByteThroughEightShifts : Prop :=
  ∀ p : Params, crc16 p [] = p.crcInit
    ∧ (∀ (bs : List Byte) (b : Byte), crc16 p (bs ++ [b]) =
        Nat.iterate (fun c : Crc => if c.getLsbD 0 then (c >>> 1) ^^^ p.crcPoly else c >>> 1) 8
          (crc16 p bs ^^^ b.zeroExtend 16))
    ∧ crc16 Params.hardware [] = 0xE012#16

/-- 43_crc16.md R232, which the spec marks as its own inference: with the polynomial 0x8408 the byte-wise form
gives the same value on every byte list. -/
def Obligations.ByteWiseCrcAgrees : Prop :=
  ∀ (p : Params) (bs : List Byte), p.crcPoly = 0x8408#16 →
    bs.foldl (fun (w : Crc) (b : Byte) =>
      let t : Byte := b ^^^ w.setWidth 8
      let t : Byte := t ^^^ (t <<< 4)
      (w >>> 8) ^^^ (t.zeroExtend 16 <<< 8) ^^^ (t.zeroExtend 16 <<< 3) ^^^ (t.zeroExtend 16 >>> 4)) p.crcInit
      = crc16 p bs

/-- 43_crc16.md R234: the check predicate; with the polynomial of R5 it is the same as a CRC of zero over all
the bytes (the spec marks that equivalence as its own inference). -/
def Obligations.CrcCheckIsAZeroResidue : Prop :=
  (∀ (p : Params) (bs : List Byte) (tb : BitVec 3), crcOk p bs tb = true ↔
    (tb = 0#3 ∧ ∃ (data : List Byte) (lo hi : Byte), bs = data ++ [lo, hi] ∧ hi ++ lo = crc16 p data))
  ∧ ∀ (p : Params) (bs : List Byte), p.crcPoly = 0x8408#16 → 2 ≤ bs.length →
      (crcOk p bs 0#3 = true ↔ crc16 p bs = 0#16)

/-- 43_crc16.md R240 with R233: CRC_COMPUTE, command byte 0x60, returns the CRC's two bytes, the low one first,
and changes nothing; it is refused without the CRC unit, without a list or with one too long. -/
def Obligations.CrcComputeReturnsTheTwoBytes : Prop :=
  (∀ p l, (p.hasCrc = false → decode p { cmd := 0x60#8, list := some l } = .error .noCrc)
    ∧ (p.hasCrc = true → decode p { cmd := 0x60#8, list := none } = .error .shape)
    ∧ (p.hasCrc = true → l.length ≤ p.maxListBytes →
        decode p { cmd := 0x60#8, list := some l } = .ok (.crcCompute l))
    ∧ (p.hasCrc = true → p.maxListBytes < l.length →
        decode p { cmd := 0x60#8, list := some l } = .error .listTooLong))
  ∧ ∀ (s : State) (l : List Byte), s.params.hasCrc = true → l.length ≤ s.params.maxListBytes →
      ∃ lo hi : Byte, hi ++ lo = crc16 s.params l
        ∧ exec (.crcCompute l) s = .next { s with results := .crcBytes lo hi :: s.results }

/-- 43_crc16.md R241: CRC_CHECK_L, command byte 0x64, writes the check of its list to CRC_OK, returns it, and
changes nothing else; it is refused as CRC_COMPUTE is. -/
def Obligations.CrcCheckLWritesCrcOk : Prop :=
  (∀ p l, (p.hasCrc = false → decode p { cmd := 0x64#8, list := some l } = .error .noCrc)
    ∧ (p.hasCrc = true → decode p { cmd := 0x64#8, list := none } = .error .shape)
    ∧ (p.hasCrc = true → l.length ≤ p.maxListBytes →
        decode p { cmd := 0x64#8, list := some l } = .ok (.crcCheckL l))
    ∧ (p.hasCrc = true → p.maxListBytes < l.length →
        decode p { cmd := 0x64#8, list := some l } = .error .listTooLong))
  ∧ ∀ (s : State) (l : List Byte), s.params.hasCrc = true → l.length ≤ s.params.maxListBytes →
      exec (.crcCheckL l) s = .next { s with
        ctl := { s.ctl with crcOk := crcOk s.params l 0#3 }
        results := .ok (crcOk s.params l 0#3) :: s.results }
      ∧ (l.length < 2 → crcOk s.params l 0#3 = false)

/-- 43_crc16.md R242, R243: CRC_CHECK_RT, command byte 0x65, and CRC_CHECK_TR, command byte 0x66, write the
check of the latched frame to CRC_OK, return it, and change nothing else; a partial frame fails. -/
def Obligations.CrcChecksOfTheLatchesWriteCrcOk : Prop :=
  (∀ p, (p.hasCrc = true → decode p { cmd := 0x65#8, list := none } = .ok .crcCheckRt
        ∧ decode p { cmd := 0x66#8, list := none } = .ok .crcCheckTr)
    ∧ (p.hasCrc = false → decode p { cmd := 0x65#8, list := none } = .error .noCrc
        ∧ decode p { cmd := 0x66#8, list := none } = .error .noCrc))
  ∧ ∀ s : State, s.params.hasCrc = true →
      exec .crcCheckRt s = .next { s with
        ctl := { s.ctl with crcOk := crcOk s.params s.ctl.rtOut.bytes s.ctl.rtOut.tb }
        results := .ok (crcOk s.params s.ctl.rtOut.bytes s.ctl.rtOut.tb) :: s.results }
      ∧ exec .crcCheckTr s = .next { s with
        ctl := { s.ctl with crcOk := crcOk s.params s.ctl.trOut.bytes s.ctl.trOut.tb }
        results := .ok (crcOk s.params s.ctl.trOut.bytes s.ctl.trOut.tb) :: s.results }
      ∧ (s.ctl.trOut.tb ≠ 0#3 → crcOk s.params s.ctl.trOut.bytes s.ctl.trOut.tb = false)

/-! ## Flags and status -/

/-- 44_control.md R251 with 10_state.md R46, R47: STATUS_READ, command byte 0x72, returns the five stored flags,
the two views of the decoder phases and a 0 in bit 7, and changes nothing. -/
def Obligations.StatusReadReturnsFlagsAndPhaseViews : Prop :=
  (∀ p, decode p { cmd := 0x72#8, list := none } = .ok .statusRead)
  ∧ ∀ s : State, ∃ b : Byte, exec .statusRead s = .next { s with results := .status b :: s.results }
      ∧ b.getLsbD 0 = s.ctl.rtDone ∧ b.getLsbD 1 = s.ctl.trDone ∧ b.getLsbD 2 = s.ctl.crcOk
      ∧ b.getLsbD 3 = s.ctl.rtOvr ∧ b.getLsbD 4 = s.ctl.trOvr
      ∧ (b.getLsbD 5 = true ↔ s.rt.phase ≠ .unsync) ∧ (b.getLsbD 6 = true ↔ s.tr.phase ≠ .unsync)
      ∧ b.getLsbD 7 = false

/-- 00_scope.md R11: the parity bit of a byte makes the number of set bits, itself counted, odd; a frame has one
per byte, in order. -/
def Obligations.ParityIsOddPerByte : Prop :=
  (∀ b : Byte, ((List.range 8).countP (fun i => b.getLsbD i) + (parityBit b).toNat) % 2 = 1)
  ∧ ∀ bytes : List Byte, (parity bytes).length = bytes.length
      ∧ ∀ i, (h : i < bytes.length) → (parity bytes)[i]? = some (parityBit bytes[i])

/-- 10_state.md R46, R50: which commands can change which flag or latch: a feed or a read of a direction, or
BLK_RESET, that direction's; a CRC_CHECK command or BLK_RESET, CRC_OK. -/
def Obligations.EachFlagIsWrittenOnlyByItsCommands : Prop :=
  ∀ (i : Instr) (s t : State), exec i s = .next t →
    ((∀ x, i ≠ .rtFeed x) → i ≠ .rtRead → i ≠ .blkReset →
      t.ctl.rtDone = s.ctl.rtDone ∧ t.ctl.rtOvr = s.ctl.rtOvr ∧ t.ctl.rtOut = s.ctl.rtOut)
    ∧ ((∀ x, i ≠ .trFeed x) → i ≠ .trRead → i ≠ .blkReset →
      t.ctl.trDone = s.ctl.trDone ∧ t.ctl.trOvr = s.ctl.trOvr ∧ t.ctl.trOut = s.ctl.trOut)
    ∧ ((∀ l, i ≠ .crcCheckL l) → i ≠ .crcCheckRt → i ≠ .crcCheckTr → i ≠ .blkReset →
      t.ctl.crcOk = s.ctl.crcOk)

/-! ## Invariants -/

/-- 10_state.md R24 to R46, and R52, which the spec marks as its own inference: every step keeps the machine in
a legal state, from every legal state. That a latched partial byte holds only its received bits (00_scope.md R10)
after a lead-in of 1 too is the model's (log entry 7, DEDUCED). -/
def Obligations.EveryStepKeepsTheMachineLegal : Prop :=
  ∀ s t : State, s.Inv → step s = .next t → t.Inv

/-- 10_state.md R52 (the spec's own inference) at the values of 70_reset_and_hazards.md R290: the machine is in
a legal state at reset. -/
def Obligations.ResetIsLegal : Prop := State.reset.Inv

/-- 10_state.md R52 (the spec's own inference) on runs: whatever commands the host issues, after every number of
steps the block has neither stopped nor left its legal states. -/
def Obligations.EveryRunFromResetStaysLegal : Prop :=
  ∀ (cmds : List Command) (n : Nat), ∃ t,
    Host.Core.run Sys2Proof.core n { State.reset with stream := cmds } = .next t ∧ State.Inv t
end

