-- ==== Sys2Proof/Laws/Crc16.lean ====
section
/-!
SUPPORT. The CRC over a list and over its pieces, its two bytes, and what the check predicate asks
(43_crc16.md R231, R233, R234).
-/

namespace Sys2Proof.Machine

/-- The CRC of the empty list is the initial value (R231). -/
@[simp] theorem crc16_nil (p : Params) : crc16 p [] = p.crcInit := rfl

/-- The CRC of a list followed by another goes on from the first one's value (R231). -/
theorem crc16_append (p : Params) (xs ys : List Byte) :
    crc16 p (xs ++ ys) = ys.foldl (crcByte p.crcPoly) (crc16 p xs) := by
  simp [crc16]

/-- Shifts add up. -/
theorem crcShifts_add (poly : Crc) (m n : Nat) (c : Crc) :
    crcShifts poly (m + n) c = crcShifts poly n (crcShifts poly m c) := by
  induction m generalizing c with
  | zero => simp [crcShifts]
  | succ m ih => rw [Nat.succ_add]; exact ih _

/-- The two bytes of a CRC make it up (R233). -/
theorem crcHigh_append_crcLow (c : Crc) : (crcHigh c ++ crcLow c : BitVec 16) = c := by
  apply BitVec.eq_of_toNat_eq
  have h := c.isLt
  rw [BitVec.toNat_append, ← Nat.shiftLeft_add_eq_or_of_lt (crcLow c).isLt]
  simp only [crcHigh, crcLow, BitVec.toNat_setWidth, BitVec.toNat_ushiftRight, Nat.shiftRight_eq_div_pow,
    Nat.shiftLeft_eq]
  omega

/-- What the check predicate asks (R234). -/
theorem crcOk_eq_true (p : Params) (bs : List Byte) (tb : BitVec 3) :
    crcOk p bs tb = true ↔
      tb = 0#3 ∧ 2 ≤ bs.length ∧ crcBytes p (bs.take (bs.length - 2)) = bs.drop (bs.length - 2) := by
  simp [crcOk, and_assoc]

end Sys2Proof.Machine
end

