-- ==== Sys2Proof/Laws/Decode.lean ====
section
/-!
SUPPORT. The opcode map read both ways (30_encoding.md R85), and everything the decoder can answer (R262).
-/

namespace Sys2Proof

/-- The command byte of a format-S command keeps the sample in `CMD[3:0]` (R81). -/
@[simp] theorem argOf_append (o s : Nib) : argOf (o ++ s) = s := by
  revert o s; decide

/-- The command byte of a format-S command keeps the group in `CMD[7:4]` (R81). -/
@[simp] theorem opcOf_append (o s : Nib) : opcOf (o ++ s) = o := by
  revert o s; decide

/-- A byte is its group above its argument field (R80). -/
theorem opcOf_append_argOf (b : Byte) : opcOf b ++ argOf b = b := by
  revert b; decide

/-- The command byte that a non-sample command's opcode stands for (R85). -/
def fixedByte : Opcode → Byte
  | .rtFeed => 0x10#8
  | .trFeed => 0x20#8
  | .rtReset => 0x40#8
  | .trReset => 0x41#8
  | .blkReset => 0x42#8
  | .encRt => 0x50#8
  | .encTr => 0x51#8
  | .encTrSof => 0x52#8
  | .crcCompute => 0x60#8
  | .crcCheckL => 0x64#8
  | .crcCheckRt => 0x65#8
  | .crcCheckTr => 0x66#8
  | .rtRead => 0x70#8
  | .trRead => 0x71#8
  | .statusRead => 0x72#8

/-- Whether a byte is of a row's pattern: the group decides for format S, the whole byte for the others (R85). -/
def rowMatches (b : Byte) (op : Opcode) : Bool :=
  match formatOf op with
  | .sample => decide (opcOf b = opcOf (fixedByte op))
  | .control => decide (b = fixedByte op)
  | .list => decide (b = fixedByte op)

/-- A byte names an opcode exactly where it is of that row's pattern, so no two rows overlap (R85). -/
theorem opcodeOf_eq_some (b : Byte) (op : Opcode) : opcodeOf b = some op ↔ rowMatches b op = true := by
  revert b; cases op <;> decide

/-- Everything the decoder can answer on a command whose byte names an opcode (R262). -/
theorem decode_of_opcode {p : Params} {c : Command} {op : Opcode} (h : opcodeOf c.cmd = some op) :
    decode p c =
      if needsCrc op && !p.hasCrc then .error .noCrc
      else match formatOf op, c.list with
        | .list, none => .error .shape
        | .list, some l =>
          if l.length ≤ p.maxListBytes then .ok (assemble (argOf c.cmd) l op) else .error .listTooLong
        | .sample, some _ => .error .shape
        | .control, some _ => .error .shape
        | .sample, none => .ok (assemble (argOf c.cmd) [] op)
        | .control, none => .ok (assemble (argOf c.cmd) [] op) := by
  cases op <;> cases hl : c.list <;> simp [decode, h, hl, formatOf]

/-- A command whose byte names no opcode is reserved (R86). -/
theorem decode_of_reserved {p : Params} {c : Command} (h : opcodeOf c.cmd = none) :
    decode p c = .error .reserved := by
  simp [decode, h]

namespace Machine

/-- Everything a step can do: hold the state, run a decoded instruction, or refuse a command. -/
theorem step_cases (s : State) :
    (s.stream = [] ∧ step s = .next s)
      ∨ ∃ c rest, s.stream = c :: rest
          ∧ ((∃ i, decode s.params c = .ok i ∧ step s = exec i (s.withStream rest))
            ∨ ∃ cause, decode s.params c = .error cause
                ∧ step s = .next ((s.withStream rest).refuse cause)) := by
  unfold step
  cases h : s.stream with
  | nil => exact .inl ⟨rfl, rfl⟩
  | cons c rest =>
    refine .inr ⟨c, rest, rfl, ?_⟩
    cases hd : decode s.params c with
    | ok i => exact .inl ⟨i, rfl, by simp [hd]⟩
    | error e => exact .inr ⟨e, rfl, by simp [hd]⟩

end Machine

end Sys2Proof
end

