-- ==== Sys2Proof/Laws/State.lean ====
section
/-!
SUPPORT. One lemma per field per named update of the state, true by `rfl` and tagged `@[simp]`, so that no
proof unfolds a record update.
-/

namespace Sys2Proof.Machine

/-! ## `State.answer` -/

@[simp] theorem State.answer_params (r : Result) (s : State) :
    (s.answer r).params = s.params := rfl

@[simp] theorem State.answer_rt (r : Result) (s : State) :
    (s.answer r).rt = s.rt := rfl

@[simp] theorem State.answer_tr (r : Result) (s : State) :
    (s.answer r).tr = s.tr := rfl

@[simp] theorem State.answer_ctl (r : Result) (s : State) :
    (s.answer r).ctl = s.ctl := rfl

@[simp] theorem State.answer_refusalMark (r : Result) (s : State) :
    (s.answer r).refusalMark = s.refusalMark := rfl

@[simp] theorem State.answer_stream (r : Result) (s : State) :
    (s.answer r).stream = s.stream := rfl

@[simp] theorem State.answer_results (r : Result) (s : State) :
    (s.answer r).results = r :: s.results := rfl

/-! ## `State.refuse` -/

@[simp] theorem State.refuse_params (c : RefusalCause) (s : State) :
    (s.refuse c).params = s.params := rfl

@[simp] theorem State.refuse_rt (c : RefusalCause) (s : State) :
    (s.refuse c).rt = s.rt := rfl

@[simp] theorem State.refuse_tr (c : RefusalCause) (s : State) :
    (s.refuse c).tr = s.tr := rfl

@[simp] theorem State.refuse_ctl (c : RefusalCause) (s : State) :
    (s.refuse c).ctl = s.ctl := rfl

@[simp] theorem State.refuse_refusalMark (c : RefusalCause) (s : State) :
    (s.refuse c).refusalMark = true := rfl

@[simp] theorem State.refuse_stream (c : RefusalCause) (s : State) :
    (s.refuse c).stream = s.stream := rfl

@[simp] theorem State.refuse_results (c : RefusalCause) (s : State) :
    (s.refuse c).results = .refused c :: s.results := rfl

/-! ## `State.withStream` -/

@[simp] theorem State.withStream_params (cs : List Command) (s : State) :
    (s.withStream cs).params = s.params := rfl

@[simp] theorem State.withStream_rt (cs : List Command) (s : State) :
    (s.withStream cs).rt = s.rt := rfl

@[simp] theorem State.withStream_tr (cs : List Command) (s : State) :
    (s.withStream cs).tr = s.tr := rfl

@[simp] theorem State.withStream_ctl (cs : List Command) (s : State) :
    (s.withStream cs).ctl = s.ctl := rfl

@[simp] theorem State.withStream_refusalMark (cs : List Command) (s : State) :
    (s.withStream cs).refusalMark = s.refusalMark := rfl

@[simp] theorem State.withStream_stream (cs : List Command) (s : State) :
    (s.withStream cs).stream = cs := rfl

@[simp] theorem State.withStream_results (cs : List Command) (s : State) :
    (s.withStream cs).results = s.results := rfl

/-! ## `State.takeRt` -/

@[simp] theorem State.takeRt_params (f : FeedResult RtState) (s : State) :
    (s.takeRt f).params = s.params := rfl

@[simp] theorem State.takeRt_rt (f : FeedResult RtState) (s : State) :
    (s.takeRt f).rt = f.unit := rfl

@[simp] theorem State.takeRt_tr (f : FeedResult RtState) (s : State) :
    (s.takeRt f).tr = s.tr := rfl

@[simp] theorem State.takeRt_ctl (f : FeedResult RtState) (s : State) :
    (s.takeRt f).ctl = f.ctl := rfl

@[simp] theorem State.takeRt_refusalMark (f : FeedResult RtState) (s : State) :
    (s.takeRt f).refusalMark = s.refusalMark := rfl

@[simp] theorem State.takeRt_stream (f : FeedResult RtState) (s : State) :
    (s.takeRt f).stream = s.stream := rfl

@[simp] theorem State.takeRt_results (f : FeedResult RtState) (s : State) :
    (s.takeRt f).results = .feed f.completed :: s.results := rfl

/-! ## `State.takeTr` -/

@[simp] theorem State.takeTr_params (f : FeedResult TrState) (s : State) :
    (s.takeTr f).params = s.params := rfl

@[simp] theorem State.takeTr_rt (f : FeedResult TrState) (s : State) :
    (s.takeTr f).rt = s.rt := rfl

@[simp] theorem State.takeTr_tr (f : FeedResult TrState) (s : State) :
    (s.takeTr f).tr = f.unit := rfl

@[simp] theorem State.takeTr_ctl (f : FeedResult TrState) (s : State) :
    (s.takeTr f).ctl = f.ctl := rfl

@[simp] theorem State.takeTr_refusalMark (f : FeedResult TrState) (s : State) :
    (s.takeTr f).refusalMark = s.refusalMark := rfl

@[simp] theorem State.takeTr_stream (f : FeedResult TrState) (s : State) :
    (s.takeTr f).stream = s.stream := rfl

@[simp] theorem State.takeTr_results (f : FeedResult TrState) (s : State) :
    (s.takeTr f).results = .feed f.completed :: s.results := rfl

/-! ## `State.checkCrc` -/

@[simp] theorem State.checkCrc_params (ok : Bool) (s : State) :
    (s.checkCrc ok).params = s.params := rfl

@[simp] theorem State.checkCrc_rt (ok : Bool) (s : State) :
    (s.checkCrc ok).rt = s.rt := rfl

@[simp] theorem State.checkCrc_tr (ok : Bool) (s : State) :
    (s.checkCrc ok).tr = s.tr := rfl

@[simp] theorem State.checkCrc_ctl (ok : Bool) (s : State) :
    (s.checkCrc ok).ctl = s.ctl.setCrcOk ok := rfl

@[simp] theorem State.checkCrc_refusalMark (ok : Bool) (s : State) :
    (s.checkCrc ok).refusalMark = s.refusalMark := rfl

@[simp] theorem State.checkCrc_stream (ok : Bool) (s : State) :
    (s.checkCrc ok).stream = s.stream := rfl

@[simp] theorem State.checkCrc_results (ok : Bool) (s : State) :
    (s.checkCrc ok).results = .ok ok :: s.results := rfl

/-! ## `Ctl.latchRt` -/

@[simp] theorem Ctl.latchRt_rtOut (f : Frame) (c : Ctl) :
    (c.latchRt f).rtOut = f := rfl

@[simp] theorem Ctl.latchRt_trOut (f : Frame) (c : Ctl) :
    (c.latchRt f).trOut = c.trOut := rfl

@[simp] theorem Ctl.latchRt_rtDone (f : Frame) (c : Ctl) :
    (c.latchRt f).rtDone = true := rfl

@[simp] theorem Ctl.latchRt_trDone (f : Frame) (c : Ctl) :
    (c.latchRt f).trDone = c.trDone := rfl

@[simp] theorem Ctl.latchRt_crcOk (f : Frame) (c : Ctl) :
    (c.latchRt f).crcOk = c.crcOk := rfl

@[simp] theorem Ctl.latchRt_rtOvr (f : Frame) (c : Ctl) :
    (c.latchRt f).rtOvr = (c.rtOvr || c.rtDone) := rfl

@[simp] theorem Ctl.latchRt_trOvr (f : Frame) (c : Ctl) :
    (c.latchRt f).trOvr = c.trOvr := rfl

/-! ## `Ctl.latchTr` -/

@[simp] theorem Ctl.latchTr_rtOut (f : Frame) (c : Ctl) :
    (c.latchTr f).rtOut = c.rtOut := rfl

@[simp] theorem Ctl.latchTr_trOut (f : Frame) (c : Ctl) :
    (c.latchTr f).trOut = f := rfl

@[simp] theorem Ctl.latchTr_rtDone (f : Frame) (c : Ctl) :
    (c.latchTr f).rtDone = c.rtDone := rfl

@[simp] theorem Ctl.latchTr_trDone (f : Frame) (c : Ctl) :
    (c.latchTr f).trDone = true := rfl

@[simp] theorem Ctl.latchTr_crcOk (f : Frame) (c : Ctl) :
    (c.latchTr f).crcOk = c.crcOk := rfl

@[simp] theorem Ctl.latchTr_rtOvr (f : Frame) (c : Ctl) :
    (c.latchTr f).rtOvr = c.rtOvr := rfl

@[simp] theorem Ctl.latchTr_trOvr (f : Frame) (c : Ctl) :
    (c.latchTr f).trOvr = (c.trOvr || c.trDone) := rfl

/-! ## `Ctl.clearRt` -/

@[simp] theorem Ctl.clearRt_rtOut (c : Ctl) :
    (c.clearRt).rtOut = c.rtOut := rfl

@[simp] theorem Ctl.clearRt_trOut (c : Ctl) :
    (c.clearRt).trOut = c.trOut := rfl

@[simp] theorem Ctl.clearRt_rtDone (c : Ctl) :
    (c.clearRt).rtDone = false := rfl

@[simp] theorem Ctl.clearRt_trDone (c : Ctl) :
    (c.clearRt).trDone = c.trDone := rfl

@[simp] theorem Ctl.clearRt_crcOk (c : Ctl) :
    (c.clearRt).crcOk = c.crcOk := rfl

@[simp] theorem Ctl.clearRt_rtOvr (c : Ctl) :
    (c.clearRt).rtOvr = false := rfl

@[simp] theorem Ctl.clearRt_trOvr (c : Ctl) :
    (c.clearRt).trOvr = c.trOvr := rfl

/-! ## `Ctl.clearTr` -/

@[simp] theorem Ctl.clearTr_rtOut (c : Ctl) :
    (c.clearTr).rtOut = c.rtOut := rfl

@[simp] theorem Ctl.clearTr_trOut (c : Ctl) :
    (c.clearTr).trOut = c.trOut := rfl

@[simp] theorem Ctl.clearTr_rtDone (c : Ctl) :
    (c.clearTr).rtDone = c.rtDone := rfl

@[simp] theorem Ctl.clearTr_trDone (c : Ctl) :
    (c.clearTr).trDone = false := rfl

@[simp] theorem Ctl.clearTr_crcOk (c : Ctl) :
    (c.clearTr).crcOk = c.crcOk := rfl

@[simp] theorem Ctl.clearTr_rtOvr (c : Ctl) :
    (c.clearTr).rtOvr = c.rtOvr := rfl

@[simp] theorem Ctl.clearTr_trOvr (c : Ctl) :
    (c.clearTr).trOvr = false := rfl

/-! ## `Ctl.setCrcOk` -/

@[simp] theorem Ctl.setCrcOk_rtOut (ok : Bool) (c : Ctl) :
    (c.setCrcOk ok).rtOut = c.rtOut := rfl

@[simp] theorem Ctl.setCrcOk_trOut (ok : Bool) (c : Ctl) :
    (c.setCrcOk ok).trOut = c.trOut := rfl

@[simp] theorem Ctl.setCrcOk_rtDone (ok : Bool) (c : Ctl) :
    (c.setCrcOk ok).rtDone = c.rtDone := rfl

@[simp] theorem Ctl.setCrcOk_trDone (ok : Bool) (c : Ctl) :
    (c.setCrcOk ok).trDone = c.trDone := rfl

@[simp] theorem Ctl.setCrcOk_crcOk (ok : Bool) (c : Ctl) :
    (c.setCrcOk ok).crcOk = ok := rfl

@[simp] theorem Ctl.setCrcOk_rtOvr (ok : Bool) (c : Ctl) :
    (c.setCrcOk ok).rtOvr = c.rtOvr := rfl

@[simp] theorem Ctl.setCrcOk_trOvr (ok : Bool) (c : Ctl) :
    (c.setCrcOk ok).trOvr = c.trOvr := rfl

/-! ## `RtState.goUnsync` -/

@[simp] theorem RtState.goUnsync_prev (e : Option FramingError) (r : RtState) :
    (r.goUnsync e).prev = r.prev := rfl

@[simp] theorem RtState.goUnsync_high (e : Option FramingError) (r : RtState) :
    (r.goUnsync e).high = 0#4 := rfl

@[simp] theorem RtState.goUnsync_phase (e : Option FramingError) (r : RtState) :
    (r.goUnsync e).phase = .unsync := rfl

@[simp] theorem RtState.goUnsync_mode (e : Option FramingError) (r : RtState) :
    (r.goUnsync e).mode = .oneOfFour := rfl

@[simp] theorem RtState.goUnsync_p (e : Option FramingError) (r : RtState) :
    (r.goUnsync e).p = r.p := rfl

@[simp] theorem RtState.goUnsync_sph (e : Option FramingError) (r : RtState) :
    (r.goUnsync e).sph = r.sph := rfl

@[simp] theorem RtState.goUnsync_half (e : Option FramingError) (r : RtState) :
    (r.goUnsync e).half = false := rfl

@[simp] theorem RtState.goUnsync_slot (e : Option FramingError) (r : RtState) :
    (r.goUnsync e).slot = 0#9 := rfl

@[simp] theorem RtState.goUnsync_drop (e : Option FramingError) (r : RtState) :
    (r.goUnsync e).drop = 0#9 := rfl

@[simp] theorem RtState.goUnsync_sr (e : Option FramingError) (r : RtState) :
    (r.goUnsync e).sr = 0#8 := rfl

@[simp] theorem RtState.goUnsync_bits (e : Option FramingError) (r : RtState) :
    (r.goUnsync e).bits = 0#3 := rfl

@[simp] theorem RtState.goUnsync_buf (e : Option FramingError) (r : RtState) :
    (r.goUnsync e).buf = [] := rfl

/-! ## `TrState.goUnsync` -/

@[simp] theorem TrState.goUnsync_w0 (e : Option FramingError) (t : TrState) :
    (t.goUnsync e).w0 = t.w0 := rfl

@[simp] theorem TrState.goUnsync_w1 (e : Option FramingError) (t : TrState) :
    (t.goUnsync e).w1 = t.w1 := rfl

@[simp] theorem TrState.goUnsync_w2 (e : Option FramingError) (t : TrState) :
    (t.goUnsync e).w2 = t.w2 := rfl

@[simp] theorem TrState.goUnsync_warm (e : Option FramingError) (t : TrState) :
    (t.goUnsync e).warm = t.warm := rfl

@[simp] theorem TrState.goUnsync_phase (e : Option FramingError) (t : TrState) :
    (t.goUnsync e).phase = .unsync := rfl

@[simp] theorem TrState.goUnsync_j (e : Option FramingError) (t : TrState) :
    (t.goUnsync e).j = t.j := rfl

@[simp] theorem TrState.goUnsync_half (e : Option FramingError) (t : TrState) :
    (t.goUnsync e).half = false := rfl

@[simp] theorem TrState.goUnsync_sub (e : Option FramingError) (t : TrState) :
    (t.goUnsync e).sub = .none := rfl

@[simp] theorem TrState.goUnsync_sr (e : Option FramingError) (t : TrState) :
    (t.goUnsync e).sr = 0#8 := rfl

@[simp] theorem TrState.goUnsync_bc (e : Option FramingError) (t : TrState) :
    (t.goUnsync e).bc = 0#4 := rfl

@[simp] theorem TrState.goUnsync_buf (e : Option FramingError) (t : TrState) :
    (t.goUnsync e).buf = [] := rfl

/-! ## `TrState.shiftWindow` -/

@[simp] theorem TrState.shiftWindow_w0 (x : Nib) (t : TrState) :
    (t.shiftWindow x).w0 = t.w1 := rfl

@[simp] theorem TrState.shiftWindow_w1 (x : Nib) (t : TrState) :
    (t.shiftWindow x).w1 = t.w2 := rfl

@[simp] theorem TrState.shiftWindow_w2 (x : Nib) (t : TrState) :
    (t.shiftWindow x).w2 = x := rfl

@[simp] theorem TrState.shiftWindow_warm (x : Nib) (t : TrState) :
    (t.shiftWindow x).warm = t.warm := rfl

@[simp] theorem TrState.shiftWindow_phase (x : Nib) (t : TrState) :
    (t.shiftWindow x).phase = t.phase := rfl

@[simp] theorem TrState.shiftWindow_j (x : Nib) (t : TrState) :
    (t.shiftWindow x).j = t.j := rfl

@[simp] theorem TrState.shiftWindow_half (x : Nib) (t : TrState) :
    (t.shiftWindow x).half = t.half := rfl

@[simp] theorem TrState.shiftWindow_sub (x : Nib) (t : TrState) :
    (t.shiftWindow x).sub = t.sub := rfl

@[simp] theorem TrState.shiftWindow_sr (x : Nib) (t : TrState) :
    (t.shiftWindow x).sr = t.sr := rfl

@[simp] theorem TrState.shiftWindow_bc (x : Nib) (t : TrState) :
    (t.shiftWindow x).bc = t.bc := rfl

@[simp] theorem TrState.shiftWindow_buf (x : Nib) (t : TrState) :
    (t.shiftWindow x).buf = t.buf := rfl

/-! ## `continueWith` -/

@[simp] theorem continueWith_unit {σ : Type} (u : σ) (c : Ctl) :
    (continueWith u c).unit = u := rfl

@[simp] theorem continueWith_ctl {σ : Type} (u : σ) (c : Ctl) :
    (continueWith u c).ctl = c := rfl

@[simp] theorem continueWith_completed {σ : Type} (u : σ) (c : Ctl) :
    (continueWith u c).completed = false := rfl

end Sys2Proof.Machine
end

