-- ==== Sys2Proof/Laws/Dispatch.lean ====
section
/-!
SUPPORT. What each instruction answers, one equation per arm of `exec`, and what no instruction can touch.
-/

namespace Sys2Proof.Machine

@[simp] theorem exec_rtFeed (x : Nib) (s : State) :
    exec (.rtFeed x) s = .next (s.takeRt (rtFeed s.params.maxFrameBytes x s.rt s.ctl)) := rfl

@[simp] theorem exec_trFeed (x : Nib) (s : State) :
    exec (.trFeed x) s = .next (s.takeTr (trFeed s.params.maxFrameBytes x s.tr s.ctl)) := rfl

@[simp] theorem exec_rtReset (s : State) :
    exec .rtReset s = .next { s.answer .nothing with rt := s.rt.goUnsync none } := rfl

@[simp] theorem exec_trReset (s : State) :
    exec .trReset s = .next { s.answer .nothing with tr := s.tr.goUnsync none } := rfl

@[simp] theorem exec_blkReset (s : State) :
    exec .blkReset s =
      .next { s.answer .nothing with rt := rtBlockReset, tr := trBlockReset, ctl := ctlBlockReset } := rfl

@[simp] theorem exec_encRt (l : List Byte) (s : State) :
    exec (.encRt l) s = .next (s.whenListFits l (s.answer (.samples (rtFrameWave l)))) := rfl

@[simp] theorem exec_encTr (l : List Byte) (s : State) :
    exec (.encTr l) s = .next (s.whenListFits l (s.answer (.samples (trFrameWave l)))) := rfl

@[simp] theorem exec_encTrSof (s : State) : exec .encTrSof s = .next (s.answer (.samples trSof)) := rfl

@[simp] theorem exec_crcCompute (l : List Byte) (s : State) :
    exec (.crcCompute l) s = .next (s.whenCrc (s.whenListFits l
      (s.answer (.crcBytes (crcLow (crc16 s.params l)) (crcHigh (crc16 s.params l)))))) := rfl

@[simp] theorem exec_crcCheckL (l : List Byte) (s : State) :
    exec (.crcCheckL l) s =
      .next (s.whenCrc (s.whenListFits l (s.checkCrc (crcOk s.params l 0#3)))) := rfl

@[simp] theorem exec_crcCheckRt (s : State) :
    exec .crcCheckRt s =
      .next (s.whenCrc (s.checkCrc (crcOk s.params s.ctl.rtOut.bytes s.ctl.rtOut.tb))) := rfl

@[simp] theorem exec_crcCheckTr (s : State) :
    exec .crcCheckTr s =
      .next (s.whenCrc (s.checkCrc (crcOk s.params s.ctl.trOut.bytes s.ctl.trOut.tb))) := rfl

@[simp] theorem exec_rtRead (s : State) :
    exec .rtRead s =
      .next { s.answer (.frame s.ctl.rtOut s.ctl.rtDone s.ctl.rtOvr) with ctl := s.ctl.clearRt } := rfl

@[simp] theorem exec_trRead (s : State) :
    exec .trRead s =
      .next { s.answer (.frame s.ctl.trOut s.ctl.trDone s.ctl.trOvr) with ctl := s.ctl.clearTr } := rfl

@[simp] theorem exec_statusRead (s : State) :
    exec .statusRead s = .next (s.answer (.status (statusByte s.rt s.tr s.ctl))) := rfl

/-- What no instruction can touch: the parameters, the host's stream, and the results already handed back. -/
theorem exec_frame {i : Instr} {s t : State} (h : exec i s = .next t) :
    t.params = s.params ∧ t.stream = s.stream ∧ ∃ r, t.results = r :: s.results := by
  cases i <;> simp [State.whenCrc, State.whenListFits] at h <;> subst h <;>
    (try split) <;> (try split) <;> simp

end Sys2Proof.Machine
end

