-- ==== Sys2Proof/Laws/FrameEncoder.lean ====
section
/-!
SUPPORT. The lengths of the waveform elements of the encoder, and the waveform of a frame with one more byte
(42_frame_encoder.md R202 to R207).
-/

namespace Sys2Proof.Machine

@[simp] theorem rtSlotWave_length (v : BitVec 2) (k : Nat) : (rtSlotWave v k).length = 2 := by
  unfold rtSlotWave; split <;> rfl

/-- A 2-bit group is eight samples (R203). -/
@[simp] theorem rtGroupWave_length (v : BitVec 2) : (rtGroupWave v).length = 8 := by
  simp [rtGroupWave]

/-- An R→T byte is 32 samples (R203). -/
@[simp] theorem rtByteWave_length (b : Byte) : (rtByteWave b).length = 32 := by
  simp [rtByteWave, bitPairs]

/-- A T→R bit is two samples (R206). -/
@[simp] theorem trBitWave_length (v : Bool) : (trBitWave v).length = 2 := by
  cases v <;> rfl

/-- A T→R byte is 16 samples (R206). -/
@[simp] theorem trByteWave_length (b : Byte) : (trByteWave b).length = 16 := by
  simp [trByteWave, byteBits]

/-- An R→T frame with one more byte in front: its 32 samples stand between the SOF and the rest (R210). -/
theorem rtFrameWave_cons (b : Byte) (bs : List Byte) :
    rtFrameWave (b :: bs) = rtSof ++ rtByteWave b ++ bs.flatMap rtByteWave ++ rtEof := by
  simp [rtFrameWave]

/-- A T→R frame with one more byte in front: its 16 samples stand between the SOF and the rest (R211). -/
theorem trFrameWave_cons (b : Byte) (bs : List Byte) :
    trFrameWave (b :: bs) = trSof ++ trByteWave b ++ bs.flatMap trByteWave ++ trEof := by
  simp [trFrameWave]

end Sys2Proof.Machine
end

