-- ==== Sys2Proof/Laws/Ops.lean ====
section
/-!
SUPPORT. One lemma for each shared operation, saying once everything it can do, and what the operand readers
read. Proofs cite these and do not unfold the operations.
-/

namespace Sys2Proof.Machine

/-! ## Guards of a command -/

/-- The CRC guard goes on where the unit is present. -/
theorem State.whenCrc_present {s go : State} (h : s.params.hasCrc = true) : s.whenCrc go = go := by
  simp [State.whenCrc, h]

/-- The CRC guard refuses where the unit is absent (R87). -/
theorem State.whenCrc_absent {s go : State} (h : s.params.hasCrc = false) :
    s.whenCrc go = s.refuse .noCrc := by
  simp [State.whenCrc, h]

/-- Everything the CRC guard can do. -/
theorem State.whenCrc_cases (s go : State) :
    (s.params.hasCrc = true ∧ s.whenCrc go = go)
      ∨ (s.params.hasCrc = false ∧ s.whenCrc go = s.refuse .noCrc) := by
  cases h : s.params.hasCrc
  · exact .inr ⟨rfl, State.whenCrc_absent h⟩
  · exact .inl ⟨rfl, State.whenCrc_present h⟩

/-- The list guard goes on where the list fits. -/
theorem State.whenListFits_of_le {l : List Byte} {s go : State} (h : l.length ≤ s.params.maxListBytes) :
    s.whenListFits l go = go := by
  simp [State.whenListFits, h]

/-- The list guard refuses a list that is too long (R83). -/
theorem State.whenListFits_of_lt {l : List Byte} {s go : State} (h : s.params.maxListBytes < l.length) :
    s.whenListFits l go = s.refuse .listTooLong := by
  simp [State.whenListFits, Nat.not_le.mpr h]

/-- Everything the list guard can do. -/
theorem State.whenListFits_cases (l : List Byte) (s go : State) :
    (l.length ≤ s.params.maxListBytes ∧ s.whenListFits l go = go)
      ∨ (s.params.maxListBytes < l.length ∧ s.whenListFits l go = s.refuse .listTooLong) := by
  rcases Nat.lt_or_ge s.params.maxListBytes l.length with h | h
  · exact .inr ⟨h, State.whenListFits_of_lt h⟩
  · exact .inl ⟨h, State.whenListFits_of_le h⟩

/-! ## Completion, error and append -/

/-- An R→T completion hands over the buffer and returns the decoder to UNSYNC (R115). -/
@[simp] theorem rtComplete_spec (r : RtState) (c : Ctl) :
    rtComplete r c = { unit := r.goUnsync none, ctl := c.latchRt r.frame, completed := true } := rfl

/-- An R→T framing error is the silent reset, and hands nothing over (R116, R117). -/
@[simp] theorem rtError_spec (e : FramingError) (r : RtState) (c : Ctl) :
    rtError e r c = { unit := r.goUnsync none, ctl := c, completed := false } := rfl

/-- Everything `RT_Append` can do (R114). -/
theorem rtAppend_cases (n : Nat) (b : Byte) (r : RtState) :
    (r.buf.length = n ∧ rtAppend n b r = (r.goUnsync none, false))
      ∨ (r.buf.length ≠ n ∧ rtAppend n b r = ({ r with buf := r.buf ++ [b] }, true)) := by
  by_cases h : r.buf.length = n
  · exact .inl ⟨h, by simp [rtAppend, h, RtState.goUnsync]⟩
  · exact .inr ⟨h, by simp [rtAppend, h]⟩

/-- A T→R completion hands over the given bytes and returns the decoder to UNSYNC (R166). -/
@[simp] theorem trComplete_spec (bytes : List Byte) (tb : BitVec 3) (t : TrState) (c : Ctl) :
    trComplete bytes tb t c =
      { unit := t.goUnsync none
        ctl := c.latchTr { bytes := bytes, tb := tb, par := parity bytes, sph := 0#2 }
        completed := true } := rfl

/-- A T→R framing error recovered at once is the silent reset, and hands nothing over (R168, R169). -/
@[simp] theorem trError_spec (e : FramingError) (t : TrState) (c : Ctl) :
    trError e t c = { unit := t.goUnsync none, ctl := c, completed := false } := rfl

/-- A T→R framing error waited out enters ERRW, and hands nothing over (R165, R169). -/
@[simp] theorem trErrorWait_spec (e : FramingError) (t : TrState) (c : Ctl) :
    trErrorWait e t c = { unit := { t with phase := .errw }, ctl := c, completed := false } := rfl

/-- Everything `TR_Append` can do (R167). -/
theorem trAppend_cases (n : Nat) (b : Byte) (t : TrState) :
    (t.buf.length = n ∧ trAppend n b t = (t.goUnsync none, false))
      ∨ (t.buf.length ≠ n ∧ trAppend n b t = ({ t with buf := t.buf ++ [b] }, true)) := by
  by_cases h : t.buf.length = n
  · exact .inl ⟨h, by simp [trAppend, h, TrState.goUnsync]⟩
  · exact .inr ⟨h, by simp [trAppend, h]⟩

/-! ## What the units read -/

/-- The drop mask of the window is the complement of the previous sample (R102). -/
@[simp] theorem dropMask_rtWindow (prev s : Nib) : dropMask (rtWindow prev s) = ~~~prev := by
  revert prev s; decide

/-- The highest set bit of a non-zero sample is set, and no higher one is (R104, R152). -/
theorem highestSet_spec (d : Nib) (h : d ≠ 0#4) :
    highestSet d < 4 ∧ d.getLsbD (highestSet d) = true
      ∧ ∀ k, highestSet d < k → k < 4 → d.getLsbD k = false := by
  have key : ∀ d : Nib, d ≠ 0#4 → highestSet d < 4 ∧ d.getLsbD (highestSet d) = true
      ∧ ∀ k : Fin 4, highestSet d < k.val → d.getLsbD k.val = false := by decide
  exact ⟨(key d h).1, (key d h).2.1, fun k hk hk4 => (key d h).2.2 ⟨k, hk4⟩ hk⟩

/-- The position with that property is the highest set bit. -/
theorem highestSet_eq (d : Nib) (k : Nat) (hk : k < 4) (hd : d.getLsbD k = true)
    (hmax : ∀ m, k < m → m < 4 → d.getLsbD m = false) : highestSet d = k := by
  have hne : d ≠ 0#4 := by rintro rfl; simp at hd
  obtain ⟨h1, h2, h3⟩ := highestSet_spec d hne
  rcases Nat.lt_trichotomy (highestSet d) k with h | h | h
  · rw [h3 k h hk] at hd; cases hd
  · exact h
  · rw [hmax _ h h1] at h2; cases h2

/-- The symbol of a bit period is NONE exactly where neither half carried modulation (R157, R158). -/
theorem combine_eq_none (m : Bool) (u : TrSub) : combine m u = .none ↔ (m = false ∧ u = .none) := by
  cases m <;> cases u <;> decide

/-- The parity of a list has one bit per byte (R11). -/
@[simp] theorem parity_length (bytes : List Byte) : (parity bytes).length = bytes.length := by
  simp [parity]

/-- The bits of the STATUS byte, each at its place (R46). -/
theorem statusByte_bits (r : RtState) (t : TrState) (c : Ctl) :
    (List.range 8).map (statusByte r t c).getLsbD =
      [c.rtDone, c.trDone, c.crcOk, c.rtOvr, c.trOvr, rtSync r, trSync t, false] := by
  have key : ∀ a b d e f g h : Bool, (List.range 8).map
      (statusBit 0 a ||| statusBit 1 b ||| statusBit 2 d ||| statusBit 3 e ||| statusBit 4 f
        ||| statusBit 5 g ||| statusBit 6 h).getLsbD = [a, b, d, e, f, g, h, false] := by decide
  exact key ..

end Sys2Proof.Machine
end

