-- ==== Sys2Proof/Laws/ManchesterDecoder.lean ====
section
/-!
SUPPORT. What one feed of the T→R decoder can do (41_manchester_decoder.md R175), said once for each kind of
feed and once for each step of a bit period.
-/

namespace Sys2Proof.Machine

/-- A feed during the warm-up only fills the window and counts itself (R151). -/
theorem trFeed_warm {n : Nat} {x : Nib} {t : TrState} {c : Ctl} (h : t.warm.toNat < 3) :
    trFeed n x t c = continueWith { t.shiftWindow x with warm := t.warm + 1#2 } c := by
  simp [trFeed, h]

/-- A feed while UNSYNC is the search, and hands nothing over (R152, R153). -/
theorem trFeed_unsync {n : Nat} {x : Nib} {t : TrState} {c : Ctl} (hw : ¬ t.warm.toNat < 3)
    (h : t.phase = .unsync) :
    trFeed n x t c = continueWith (trSearch t.w0 t.w1 t.w2 (t.shiftWindow x)) c := by
  simp [trFeed, hw, h]

/-- A synchronized feed with `half = 0` measures a first half (R155, R156). -/
theorem trFeed_firstHalf {n : Nat} {x : Nib} {t : TrState} {c : Ctl} (hw : ¬ t.warm.toNat < 3)
    (h : t.phase ≠ .unsync) (hh : t.half = false) :
    trFeed n x t c = continueWith (trFirstHalf (modulated t.w0 t.w1 t.j) (t.shiftWindow x)) c := by
  simp [trFeed, hw, h, hh]

/-- A synchronized feed with `half = 1` measures a second half (R155, R157). -/
theorem trFeed_secondHalf {n : Nat} {x : Nib} {t : TrState} {c : Ctl} (hw : ¬ t.warm.toNat < 3)
    (h : t.phase ≠ .unsync) (hh : t.half = true) :
    trFeed n x t c = trSecondHalf n (modulated t.w0 t.w1 t.j) (t.shiftWindow x) c := by
  simp [trFeed, hw, h, hh]

/-- The four kinds of feed (R175). -/
theorem trFeed_cases (n : Nat) (x : Nib) (t : TrState) (c : Ctl) :
    (t.warm.toNat < 3 ∧ trFeed n x t c = continueWith { t.shiftWindow x with warm := t.warm + 1#2 } c)
      ∨ (¬ t.warm.toNat < 3 ∧ t.phase = .unsync
          ∧ trFeed n x t c = continueWith (trSearch t.w0 t.w1 t.w2 (t.shiftWindow x)) c)
      ∨ (¬ t.warm.toNat < 3 ∧ t.phase ≠ .unsync ∧ t.half = false ∧ trFeed n x t c =
          continueWith (trFirstHalf (modulated t.w0 t.w1 t.j) (t.shiftWindow x)) c)
      ∨ (¬ t.warm.toNat < 3 ∧ t.phase ≠ .unsync ∧ t.half = true
          ∧ trFeed n x t c = trSecondHalf n (modulated t.w0 t.w1 t.j) (t.shiftWindow x) c) := by
  by_cases hw : t.warm.toNat < 3
  · exact .inl ⟨hw, trFeed_warm hw⟩
  · by_cases h : t.phase = .unsync
    · exact .inr (.inl ⟨hw, h, trFeed_unsync hw h⟩)
    · cases hh : t.half
      · exact .inr (.inr (.inl ⟨hw, h, rfl, trFeed_firstHalf hw h hh⟩))
      · exact .inr (.inr (.inr ⟨hw, h, rfl, trFeed_secondHalf hw h hh⟩))

/-- Everything the search can do (R152 to R154). -/
theorem trSearch_cases (x a b : Nib) (t : TrState) :
    trSearch x a b t = t
      ∨ (x &&& a ≠ 0#4 ∧ b.getLsbD (highestSet (x &&& a)) = true
          ∧ trSearch x a b t = trSyncEntry (highestSet (x &&& a)) t) := by
  by_cases h : x &&& a = 0#4
  · exact .inl (by simp [trSearch, h])
  · cases hb : b.getLsbD (highestSet (x &&& a))
    · exact .inl (by simp only [trSearch, if_neg h, hb, Bool.false_eq_true, if_false])
    · exact .inr ⟨h, rfl, by simp only [trSearch, if_neg h, hb, if_true]⟩

/-- A measured second half: the symbol it leaves (R157). -/
def halfCombined (m : Bool) (t : TrState) : TrState := { t with half := false, sub := combine m t.sub }

/-- Everything a second half can do (R157, R158). -/
theorem trSecondHalf_cases (n : Nat) (m : Bool) (t : TrState) (c : Ctl) :
    (combine m t.sub = .none ∧ trSecondHalf n m t c = trNeither (halfCombined m t) c)
      ∨ (combine m t.sub ≠ .none ∧ trSecondHalf n m t c = trPhaseStep n (halfCombined m t) c) := by
  by_cases h : combine m t.sub = .none
  · exact .inl ⟨h, by simp [trSecondHalf, h, halfCombined]⟩
  · exact .inr ⟨h, by simp [trSecondHalf, h, halfCombined]⟩

/-- Everything a data symbol can do (R162, R167). -/
theorem trSymbol_cases (n : Nat) (v : Bool) (t : TrState) (c : Ctl) :
    (t.bc = 8#4 ∧ t.buf.length = n ∧ trSymbol n v t c = continueWith (t.goUnsync none) c)
      ∨ (t.bc = 8#4 ∧ t.buf.length ≠ n ∧ trSymbol n v t c =
          continueWith (trShiftIn v { t with buf := t.buf ++ [t.sr], sr := 0#8, bc := 0#4 }) c)
      ∨ (t.bc ≠ 8#4 ∧ trSymbol n v t c = continueWith (trShiftIn v t) c) := by
  by_cases h8 : t.bc = 8#4
  · rcases trAppend_cases n t.sr t with ⟨hl, ha⟩ | ⟨hl, ha⟩
    · exact .inl ⟨h8, hl, by simp [trSymbol, h8, ha]⟩
    · exact .inr (.inl ⟨h8, hl, by simp [trSymbol, h8, ha]⟩)
  · exact .inr (.inr ⟨h8, by simp only [trSymbol, if_neg h8]⟩)

/-- A partial byte is the data bits of the shift register without the lead-in above them (R66). -/
theorem partialByte_toNat (sr : Byte) (bc : BitVec 4) (h : bc.toNat ≤ 8) :
    (partialByte sr bc).toNat = sr.toNat / 2 ^ (8 - bc.toNat) % 2 ^ (bc.toNat - 1) := by
  have hp : 2 ^ (bc.toNat - 1) ≤ 2 ^ 7 := Nat.pow_le_pow_right (by decide) (by omega)
  rw [partialByte, BitVec.toNat_and, BitVec.toNat_ushiftRight, BitVec.toNat_ofNat, Nat.shiftRight_eq_div_pow,
    Nat.mod_eq_of_lt (by omega), Nat.and_two_pow_sub_one_eq_mod]

/-- A partial byte holds nothing but its received bits (R10). -/
theorem partialByte_lt (sr : Byte) (bc : BitVec 4) (h : bc.toNat ≤ 8) :
    (partialByte sr bc).toNat < 2 ^ (bc.toNat - 1) := by
  rw [partialByte_toNat sr bc h]
  exact Nat.mod_lt _ (Nat.two_pow_pos _)

/-- Everything the end of a frame can do (R164, R166, R167). -/
theorem trEndOfFrame_cases (n : Nat) (t : TrState) (c : Ctl) :
    (t.buf = [] ∧ t.bc = 0#4 ∧ trEndOfFrame n t c = continueWith { t with phase := .errw } c)
      ∨ (2 ≤ t.bc.toNat ∧ t.buf.length = n ∧ trEndOfFrame n t c = continueWith (t.goUnsync none) c)
      ∨ (2 ≤ t.bc.toNat ∧ t.buf.length ≠ n ∧ trEndOfFrame n t c =
          trComplete (t.buf ++ [partialByte t.sr t.bc]) (BitVec.ofNat 3 (t.bc.toNat - 1)) t c)
      ∨ (¬ (t.buf = [] ∧ t.bc = 0#4) ∧ t.bc.toNat < 2 ∧ trEndOfFrame n t c = trComplete t.buf 0#3 t c) := by
  by_cases h0 : t.buf = [] ∧ t.bc = 0#4
  · exact .inl ⟨h0.1, h0.2, by simp [trEndOfFrame, h0, continueWith]⟩
  · by_cases h2 : 2 ≤ t.bc.toNat
    · rcases trAppend_cases n (partialByte t.sr t.bc) t with ⟨hl, ha⟩ | ⟨hl, ha⟩
      · exact .inr (.inl ⟨h2, hl, by simp only [trEndOfFrame, h0, h2, ha, if_true, if_false]⟩)
      · exact .inr (.inr (.inl ⟨h2, hl, by
          simp only [trEndOfFrame, h0, h2, ha, if_true, if_false]
          simp [TrState.goUnsync]⟩))
    · exact .inr (.inr (.inr ⟨h0, by omega, by simp only [trEndOfFrame, h0, h2, if_false]⟩))

/-- Everything a neither-half period can do (R158). -/
theorem trNeither_cases (t : TrState) (c : Ctl) :
    (t.phase = .sofc ∧ trNeither t c = trComplete [0x0F#8] 0#3 t c)
      ∨ (t.phase ≠ .sofc ∧ trNeither t c = continueWith (t.goUnsync none) c) := by
  by_cases h : t.phase = .sofc
  · exact .inl ⟨h, by simp [trNeither, h]⟩
  · exact .inr ⟨h, by simp [trNeither, h, continueWith]⟩

/-- The end of a frame hands it over or leaves the control unit alone. -/
theorem trSecondHalf_handsOver (n : Nat) (m : Bool) (t : TrState) (c : Ctl) :
    ((trSecondHalf n m t c).completed = false ∧ (trSecondHalf n m t c).ctl = c)
      ∨ ((t.phase = .sofc ∨ t.phase = .eoff)
          ∧ ∃ bytes tb, trSecondHalf n m t c = trComplete bytes tb (halfCombined m t) c) := by
  rcases trSecondHalf_cases n m t c with ⟨-, h⟩ | ⟨hs, h⟩ <;> rw [h]
  · rcases trNeither_cases (halfCombined m t) c with ⟨hp, h⟩ | ⟨-, h⟩ <;> rw [h]
    · exact .inr ⟨.inl hp, _, _, rfl⟩
    · exact .inl ⟨rfl, rfl⟩
  · have hp : (halfCombined m t).phase = t.phase := rfl
    generalize hu : halfCombined m t = u at *
    have hsym : ∀ v, (trSymbol n v u c).completed = false ∧ (trSymbol n v u c).ctl = c := by
      intro v
      rcases trSymbol_cases n v u c with ⟨-, -, h⟩ | ⟨-, -, h⟩ | ⟨-, h⟩ <;> rw [h] <;> exact ⟨rfl, rfl⟩
    have hdata : (trDataPeriod n u c).completed = false ∧ (trDataPeriod n u c).ctl = c := by
      unfold trDataPeriod; split
      · exact hsym _
      · exact hsym _
      · exact ⟨rfl, rfl⟩
      · exact ⟨rfl, rfl⟩
    unfold trPhaseStep; split
    · unfold trStage1; split <;> exact .inl ⟨rfl, rfl⟩
    · unfold trStage2; split <;> exact .inl ⟨rfl, rfl⟩
    · unfold trStage3; split <;> exact .inl ⟨rfl, rfl⟩
    · exact .inl hdata
    · exact .inl hdata
    · rename_i he
      rcases trEndOfFrame_cases n u c with ⟨-, -, h⟩ | ⟨-, -, h⟩ | ⟨-, -, h⟩ | ⟨-, -, h⟩ <;> rw [h]
      · exact .inl ⟨rfl, rfl⟩
      · exact .inl ⟨rfl, rfl⟩
      · exact .inr ⟨.inr (hp ▸ he), _, _, rfl⟩
      · exact .inr ⟨.inr (hp ▸ he), _, _, rfl⟩
    · exact .inl ⟨rfl, rfl⟩
    · exact .inl ⟨rfl, rfl⟩

/-- Everything a feed of the T→R decoder can do to the control unit: a completion at the end of a bit period
in SOFC or EOFF (R166), nothing otherwise (R169). -/
theorem trFeed_handsOver (n : Nat) (x : Nib) (t : TrState) (c : Ctl) :
    ((trFeed n x t c).completed = false ∧ (trFeed n x t c).ctl = c)
      ∨ (¬ t.warm.toNat < 3 ∧ t.half = true ∧ (t.phase = .sofc ∨ t.phase = .eoff)
          ∧ ∃ bytes tb m, trFeed n x t c = trComplete bytes tb (halfCombined m (t.shiftWindow x)) c) := by
  rcases trFeed_cases n x t c with ⟨-, h⟩ | ⟨-, -, h⟩ | ⟨-, -, -, h⟩ | ⟨hw, -, hh, h⟩ <;> rw [h]
  · exact .inl ⟨rfl, rfl⟩
  · exact .inl ⟨rfl, rfl⟩
  · exact .inl ⟨rfl, rfl⟩
  · rcases trSecondHalf_handsOver n (modulated t.w0 t.w1 t.j) (t.shiftWindow x) c with h | ⟨hp, b, tb, h⟩
    · exact .inl h
    · exact .inr ⟨hw, hh, hp, b, tb, _, h⟩

end Sys2Proof.Machine
end

