-- ==== Sys2Proof/Laws/PerInstr.lean ====
section
/-!
SUPPORT. The per-instruction family RoundTrip: a well-formed instruction is what its encoding decodes to, one
lemma per constructor of `Instr` (30_encoding.md R85).
-/

/-- The encoding of the instruction, where it is well-formed, decodes to it. -/
def Sys2Proof.Laws.RoundTrip.Statement (i : Sys2Proof.Instr) : Prop :=
  ∀ p : Sys2Proof.Params, i.wellFormed p = true → Sys2Proof.decode p (Sys2Proof.encode i) = .ok i

namespace Sys2Proof.Laws.RoundTrip

theorem rtFeed (s : Nib) : Statement (.rtFeed s) := by
  intro p _
  simp [decode, encode, opcodeOf, needsCrc, formatOf, assemble]

theorem trFeed (s : Nib) : Statement (.trFeed s) := by
  intro p _
  simp [decode, encode, opcodeOf, needsCrc, formatOf, assemble]

theorem rtReset : Statement .rtReset := by
  intro p h
  simp_all [decode, encode, opcodeOf, opcOf, needsCrc, formatOf, assemble, Instr.wellFormed, Instr.crcPresent, Instr.usesCrc,
    Instr.listFits, Instr.listOperand]

theorem trReset : Statement .trReset := by
  intro p h
  simp_all [decode, encode, opcodeOf, opcOf, needsCrc, formatOf, assemble, Instr.wellFormed, Instr.crcPresent, Instr.usesCrc,
    Instr.listFits, Instr.listOperand]

theorem blkReset : Statement .blkReset := by
  intro p h
  simp_all [decode, encode, opcodeOf, opcOf, needsCrc, formatOf, assemble, Instr.wellFormed, Instr.crcPresent, Instr.usesCrc,
    Instr.listFits, Instr.listOperand]

theorem encRt (l : List Byte) : Statement (.encRt l) := by
  intro p h
  simp_all [decode, encode, opcodeOf, opcOf, needsCrc, formatOf, assemble, Instr.wellFormed, Instr.crcPresent, Instr.usesCrc,
    Instr.listFits, Instr.listOperand]

theorem encTr (l : List Byte) : Statement (.encTr l) := by
  intro p h
  simp_all [decode, encode, opcodeOf, opcOf, needsCrc, formatOf, assemble, Instr.wellFormed, Instr.crcPresent, Instr.usesCrc,
    Instr.listFits, Instr.listOperand]

theorem encTrSof : Statement .encTrSof := by
  intro p h
  simp_all [decode, encode, opcodeOf, opcOf, needsCrc, formatOf, assemble, Instr.wellFormed, Instr.crcPresent, Instr.usesCrc,
    Instr.listFits, Instr.listOperand]

theorem crcCompute (l : List Byte) : Statement (.crcCompute l) := by
  intro p h
  simp_all [decode, encode, opcodeOf, opcOf, needsCrc, formatOf, assemble, Instr.wellFormed, Instr.crcPresent, Instr.usesCrc,
    Instr.listFits, Instr.listOperand]

theorem crcCheckL (l : List Byte) : Statement (.crcCheckL l) := by
  intro p h
  simp_all [decode, encode, opcodeOf, opcOf, needsCrc, formatOf, assemble, Instr.wellFormed, Instr.crcPresent, Instr.usesCrc,
    Instr.listFits, Instr.listOperand]

theorem crcCheckRt : Statement .crcCheckRt := by
  intro p h
  simp_all [decode, encode, opcodeOf, opcOf, needsCrc, formatOf, assemble, Instr.wellFormed, Instr.crcPresent, Instr.usesCrc,
    Instr.listFits, Instr.listOperand]

theorem crcCheckTr : Statement .crcCheckTr := by
  intro p h
  simp_all [decode, encode, opcodeOf, opcOf, needsCrc, formatOf, assemble, Instr.wellFormed, Instr.crcPresent, Instr.usesCrc,
    Instr.listFits, Instr.listOperand]

theorem rtRead : Statement .rtRead := by
  intro p h
  simp_all [decode, encode, opcodeOf, opcOf, needsCrc, formatOf, assemble, Instr.wellFormed, Instr.crcPresent, Instr.usesCrc,
    Instr.listFits, Instr.listOperand]

theorem trRead : Statement .trRead := by
  intro p h
  simp_all [decode, encode, opcodeOf, opcOf, needsCrc, formatOf, assemble, Instr.wellFormed, Instr.crcPresent, Instr.usesCrc,
    Instr.listFits, Instr.listOperand]

theorem statusRead : Statement .statusRead := by
  intro p h
  simp_all [decode, encode, opcodeOf, opcOf, needsCrc, formatOf, assemble, Instr.wellFormed, Instr.crcPresent, Instr.usesCrc,
    Instr.listFits, Instr.listOperand]

end Sys2Proof.Laws.RoundTrip
end

