-- ==== Sys2Proof/Laws/PpmDecoder.lean ====
section
/-!
SUPPORT. What one feed of the R→T decoder can do (40_ppm_decoder.md R120), said once for each kind of feed and
once for what it can hand over.
-/

namespace Sys2Proof.Machine

/-- A feed while UNSYNC is the search, and hands nothing over (R102). -/
theorem rtFeed_unsync {n : Nat} {x : Nib} {r : RtState} {c : Ctl} (h : r.phase = .unsync) :
    rtFeed n x r c = continueWith (rtSearch (rtWindow r.prev x) { r with prev := x }) c := by
  simp [rtFeed, h]

/-- A synchronized feed with `half = 0` measures a first half (R107, R108). -/
theorem rtFeed_firstHalf {n : Nat} {x : Nib} {r : RtState} {c : Ctl} (h : r.phase ≠ .unsync)
    (hh : r.half = false) :
    rtFeed n x r c =
      rtFirstHalf (droppedAt (rtWindow r.prev x) r.p.toNat) { r with prev := x, half := true } c := by
  simp [rtFeed, h, hh]

/-- A synchronized feed with `half = 1` measures a second half (R107, R109). -/
theorem rtFeed_secondHalf {n : Nat} {x : Nib} {r : RtState} {c : Ctl} (h : r.phase ≠ .unsync)
    (hh : r.half = true) :
    rtFeed n x r c =
      rtSecondHalf n (droppedAt (rtWindow r.prev x) r.p.toNat) { r with prev := x, half := false } c := by
  simp [rtFeed, h, hh]

/-- The three kinds of feed (R120). -/
theorem rtFeed_cases (n : Nat) (x : Nib) (r : RtState) (c : Ctl) :
    (r.phase = .unsync
        ∧ rtFeed n x r c = continueWith (rtSearch (rtWindow r.prev x) { r with prev := x }) c)
      ∨ (r.phase ≠ .unsync ∧ r.half = false ∧ rtFeed n x r c =
          rtFirstHalf (droppedAt (rtWindow r.prev x) r.p.toNat) { r with prev := x, half := true } c)
      ∨ (r.phase ≠ .unsync ∧ r.half = true ∧ rtFeed n x r c =
          rtSecondHalf n (droppedAt (rtWindow r.prev x) r.p.toNat) { r with prev := x, half := false } c) := by
  by_cases h : r.phase = .unsync
  · exact .inl ⟨h, rtFeed_unsync h⟩
  · cases hh : r.half
    · exact .inr (.inl ⟨h, rfl, rtFeed_firstHalf h hh⟩)
    · exact .inr (.inr ⟨h, rfl, rtFeed_secondHalf h hh⟩)

/-- Everything the search can do (R102 to R105): count a sample without a drop, restart the count, or enter
SOC. -/
theorem rtSearch_cases (prev x : Nib) (r : RtState) :
    (prev = 0xF#4 ∧ rtSearch (rtWindow prev x) r =
        { r with high := BitVec.ofNat 4 (min (r.high.toNat + 1) 8) })
      ∨ (prev ≠ 0xF#4 ∧ r.high.toNat < 8 ∧ rtSearch (rtWindow prev x) r = { r with high := 0#4 })
      ∨ (prev ≠ 0xF#4 ∧ 8 ≤ r.high.toNat
          ∧ rtSearch (rtWindow prev x) r = rtSyncEntry (rtWindow prev x) (~~~prev) r) := by
  have key : ~~~prev = 0#4 ↔ prev = 0xF#4 := by revert prev; decide
  by_cases h : prev = 0xF#4
  · exact .inl ⟨h, by simp [rtSearch, h]⟩
  · have hd : ~~~prev ≠ 0#4 := fun e => h (key.1 e)
    rcases Nat.lt_or_ge r.high.toNat 8 with hh | hh
    · exact .inr (.inl ⟨h, hh, by simp only [rtSearch, dropMask_rtWindow, if_neg hd, if_pos hh]⟩)
    · exact .inr (.inr ⟨h, hh, by
        simp only [rtSearch, dropMask_rtWindow, if_neg hd, if_neg (Nat.not_lt.mpr hh)]⟩)

/-- Everything a first half can do (R108). -/
theorem rtFirstHalf_cases (d : Bool) (r : RtState) (c : Ctl) :
    (d = true ∧ r.slot = 1#9 ∧ r.phase = .recv ∧ rtFirstHalf d r c = rtComplete r c)
      ∨ (d = true ∧ (r.slot = 1#9 ∨ r.phase = .recv) ∧ ¬ (r.slot = 1#9 ∧ r.phase = .recv)
          ∧ rtFirstHalf d r c = continueWith (r.goUnsync none) c)
      ∨ ((d = false ∨ (r.slot ≠ 1#9 ∧ r.phase ≠ .recv)) ∧ rtFirstHalf d r c = continueWith r c) := by
  cases d <;> by_cases hs : r.slot = 1#9 <;> by_cases hp : r.phase = .recv <;>
    simp [rtFirstHalf, hs, hp, continueWith]

/-- Everything the end of the SOF group can do (R111). -/
theorem rtSofGroupEnd_cases (r : RtState) (c : Ctl) :
    (r.drop = 4#9 ∧ rtSofGroupEnd r c =
        continueWith { r with phase := .recv, mode := .oneOfTwoFiveSix, drop := 0#9 } c)
      ∨ (r.drop = 3#9 ∧ rtSofGroupEnd r c =
          continueWith { r with phase := .recv, mode := .oneOfFour, drop := 0#9 } c)
      ∨ (r.drop ≠ 4#9 ∧ r.drop ≠ 3#9 ∧ rtSofGroupEnd r c = continueWith (r.goUnsync none) c) := by
  by_cases h4 : r.drop = 4#9
  · exact .inl ⟨h4, by simp [rtSofGroupEnd, h4]⟩
  · by_cases h3 : r.drop = 3#9
    · exact .inr (.inl ⟨h3, by simp [rtSofGroupEnd, h3]⟩)
    · exact .inr (.inr ⟨h4, h3, by simp [rtSofGroupEnd, h4, h3, continueWith]⟩)

/-- The shift register after two more bits (R112). -/
def pairShifted (r : RtState) : Byte := (r.sr >>> 2) ||| ((r.drop - 1#9).setWidth 8 <<< 6)

/-- Everything the end of a OneOfFour data group can do (R112, R114). -/
theorem rtPairGroupEnd_cases (n : Nat) (r : RtState) (c : Ctl) :
    ((r.drop = 0#9 ∨ (r.bits.toNat = 6 ∧ r.buf.length = n))
        ∧ rtPairGroupEnd n r c = continueWith (r.goUnsync none) c)
      ∨ (r.drop ≠ 0#9 ∧ r.bits.toNat = 6 ∧ r.buf.length ≠ n ∧ rtPairGroupEnd n r c =
          continueWith { r with drop := 0#9, sr := 0#8, bits := 0#3, buf := r.buf ++ [pairShifted r] } c)
      ∨ (r.drop ≠ 0#9 ∧ r.bits.toNat ≠ 6 ∧ rtPairGroupEnd n r c =
          continueWith { r with
            drop := 0#9, sr := pairShifted r, bits := BitVec.ofNat 3 (r.bits.toNat + 2) } c) := by
  by_cases hd : r.drop = 0#9
  · exact .inl ⟨.inl hd, by simp [rtPairGroupEnd, hd, continueWith]⟩
  · by_cases hb : r.bits.toNat = 6
    · rcases rtAppend_cases n (pairShifted r) { r with drop := 0#9, sr := pairShifted r } with
        ⟨hl, ha⟩ | ⟨hl, ha⟩
      · exact .inl ⟨.inr ⟨hb, hl⟩, by
          simp only [pairShifted] at ha
          simp [rtPairGroupEnd, hd, hb, ha, RtState.goUnsync]⟩
      · exact .inr (.inl ⟨hd, hb, hl, by
          simp only [pairShifted] at ha
          simp [rtPairGroupEnd, hd, hb, ha, pairShifted]⟩)
    · exact .inr (.inr ⟨hd, hb, by simp [rtPairGroupEnd, hd, hb, pairShifted]⟩)

/-- Everything the end of a OneOfTwoFiveSix data group can do (R113, R114). -/
theorem rtByteGroupEnd_cases (n : Nat) (r : RtState) (c : Ctl) :
    ((r.drop = 0#9 ∨ r.buf.length = n) ∧ rtByteGroupEnd n r c = continueWith (r.goUnsync none) c)
      ∨ (r.drop ≠ 0#9 ∧ r.buf.length ≠ n ∧ rtByteGroupEnd n r c =
          continueWith { r with drop := 0#9, buf := r.buf ++ [(r.drop - 1#9).setWidth 8] } c) := by
  by_cases hd : r.drop = 0#9
  · exact .inl ⟨.inl hd, by simp [rtByteGroupEnd, hd, continueWith]⟩
  · rcases rtAppend_cases n ((r.drop - 1#9).setWidth 8) { r with drop := 0#9 } with ⟨hl, ha⟩ | ⟨hl, ha⟩
    · exact .inl ⟨.inr hl, by simp [rtByteGroupEnd, hd, ha, RtState.goUnsync]⟩
    · exact .inr ⟨hd, hl, by simp [rtByteGroupEnd, hd, ha]⟩

/-- What a second half writes before the group's end is examined (R109). -/
def slotCounted (d : Bool) (r : RtState) : RtState :=
  { r with slot := r.slot + 1#9, drop := if d then r.slot + 1#9 else r.drop }

/-- Everything a second half can do (R109, R110). -/
theorem rtSecondHalf_cases (n : Nat) (d : Bool) (r : RtState) (c : Ctl) :
    (d = true ∧ r.drop ≠ 0#9 ∧ rtSecondHalf n d r c = continueWith (r.goUnsync none) c)
      ∨ (¬ (d = true ∧ r.drop ≠ 0#9) ∧ rtSecondHalf n d r c = rtGroupEnd n (slotCounted d r) c) := by
  cases d
  · exact .inr ⟨by simp, by simp [rtSecondHalf, slotCounted]⟩
  · by_cases hd : r.drop = 0#9
    · exact .inr ⟨by simp [hd], by simp [rtSecondHalf, slotCounted, hd]⟩
    · exact .inl ⟨rfl, hd, by simp [rtSecondHalf, hd, continueWith, RtState.goUnsync]⟩

/-- Everything the examination of a group's end can do (R110). -/
theorem rtGroupEnd_cases (n : Nat) (r : RtState) (c : Ctl) :
    (r.slot.toNat < r.mode.slots ∧ rtGroupEnd n r c = continueWith r c)
      ∨ (r.mode.slots ≤ r.slot.toNat ∧ r.phase ≠ .recv
          ∧ rtGroupEnd n r c = rtSofGroupEnd { r with slot := 0#9 } c)
      ∨ (r.mode.slots ≤ r.slot.toNat ∧ r.phase = .recv ∧ r.mode = .oneOfFour
          ∧ rtGroupEnd n r c = rtPairGroupEnd n { r with slot := 0#9 } c)
      ∨ (r.mode.slots ≤ r.slot.toNat ∧ r.phase = .recv ∧ r.mode = .oneOfTwoFiveSix
          ∧ rtGroupEnd n r c = rtByteGroupEnd n { r with slot := 0#9 } c) := by
  rcases Nat.lt_or_ge r.slot.toNat r.mode.slots with h | h
  · exact .inl ⟨h, by simp [rtGroupEnd, h]⟩
  · refine .inr ?_
    cases hp : r.phase <;> cases hm : r.mode <;> simp_all [rtGroupEnd, Nat.not_lt.mpr]

/-- No end of a group hands a frame over (R110 to R114, R117). -/
theorem rtGroupEnd_continues (n : Nat) (r : RtState) (c : Ctl) :
    (rtGroupEnd n r c).completed = false ∧ (rtGroupEnd n r c).ctl = c := by
  rcases rtGroupEnd_cases n r c with ⟨-, h⟩ | ⟨-, -, h⟩ | ⟨-, -, -, h⟩ | ⟨-, -, -, h⟩ <;> rw [h]
  · exact ⟨rfl, rfl⟩
  · rcases rtSofGroupEnd_cases { r with slot := 0#9 } c with ⟨-, h⟩ | ⟨-, h⟩ | ⟨-, -, h⟩ <;> rw [h] <;>
      exact ⟨rfl, rfl⟩
  · rcases rtPairGroupEnd_cases n { r with slot := 0#9 } c with ⟨-, h⟩ | ⟨-, -, -, h⟩ | ⟨-, -, h⟩ <;> rw [h] <;>
      exact ⟨rfl, rfl⟩
  · rcases rtByteGroupEnd_cases n { r with slot := 0#9 } c with ⟨-, h⟩ | ⟨-, -, h⟩ <;> rw [h] <;>
      exact ⟨rfl, rfl⟩

/-- No second half hands a frame over (R109, R117). -/
theorem rtSecondHalf_continues (n : Nat) (d : Bool) (r : RtState) (c : Ctl) :
    (rtSecondHalf n d r c).completed = false ∧ (rtSecondHalf n d r c).ctl = c := by
  rcases rtSecondHalf_cases n d r c with ⟨-, -, h⟩ | ⟨-, h⟩ <;> rw [h]
  · exact ⟨rfl, rfl⟩
  · exact rtGroupEnd_continues ..

/-- Everything a feed of the R→T decoder can do to the control unit: a completion on a first-half drop after
one slot in RECV (R115), nothing otherwise (R117). -/
theorem rtFeed_handsOver (n : Nat) (x : Nib) (r : RtState) (c : Ctl) :
    (r.phase = .recv ∧ r.half = false ∧ r.slot = 1#9 ∧ droppedAt (rtWindow r.prev x) r.p.toNat = true
        ∧ rtFeed n x r c = rtComplete { r with prev := x, half := true } c)
      ∨ (¬ (r.phase = .recv ∧ r.half = false ∧ r.slot = 1#9 ∧ droppedAt (rtWindow r.prev x) r.p.toNat = true)
        ∧ (rtFeed n x r c).completed = false ∧ (rtFeed n x r c).ctl = c) := by
  rcases rtFeed_cases n x r c with ⟨hp, h⟩ | ⟨-, hh, h⟩ | ⟨-, hh, h⟩ <;> rw [h]
  · exact .inr ⟨by simp [hp], rfl, rfl⟩
  · rcases rtFirstHalf_cases (droppedAt (rtWindow r.prev x) r.p.toNat) { r with prev := x, half := true } c with
      ⟨hd, hs, hp, h⟩ | ⟨-, -, hn, h⟩ | ⟨hn, h⟩ <;> rw [h]
    · exact .inl ⟨hp, hh, hs, hd, rfl⟩
    · exact .inr ⟨fun hc => hn ⟨hc.2.2.1, hc.1⟩, rfl, rfl⟩
    · refine .inr ⟨fun hc => ?_, rfl, rfl⟩
      rcases hn with hn | hn
      · rw [hn] at hc; exact absurd hc.2.2.2 (by simp)
      · exact hn.1 hc.2.2.1
  · exact .inr ⟨by simp [hh], rtSecondHalf_continues ..⟩

end Sys2Proof.Machine
end

