-- ==== Sys2Proof/Laws/Runs.lean ====
section
/-!
SUPPORT. Runs of several commands: every command answers, so a run of commands goes on from where the run of
the ones before it ended.
-/

namespace Sys2Proof.Machine

/-- No command stops the machine (60_exceptions.md R260). -/
theorem exec_answers (i : Instr) (s : State) : ∃ t, exec i s = .next t := by
  cases i <;> exact ⟨_, rfl⟩

/-- A run that begins with one command. -/
theorem runInstrs_cons {i : Instr} {rest : List Instr} {s t : State} (h : exec i s = .next t) :
    runInstrs (i :: rest) s = runInstrs rest t := by
  simp only [runInstrs, h]

/-- A run of two lists of commands. -/
theorem runInstrs_append (xs ys : List Instr) (s : State) :
    ∃ t, runInstrs xs s = .next t ∧ runInstrs (xs ++ ys) s = runInstrs ys t := by
  induction xs generalizing s with
  | nil => exact ⟨s, rfl, rfl⟩
  | cons i xs ih =>
    obtain ⟨u, hu⟩ := exec_answers i s
    obtain ⟨t, h1, h2⟩ := ih u
    exact ⟨t, by rw [runInstrs_cons hu, h1], by rw [List.cons_append, runInstrs_cons hu, h2]⟩

/-- The feeds of two sample lists. -/
theorem rtFeeds_append (xs ys : List Nib) : rtFeeds (xs ++ ys) = rtFeeds xs ++ rtFeeds ys := by
  simp [rtFeeds]

/-- The feeds of two sample lists. -/
theorem trFeeds_append (xs ys : List Nib) : trFeeds (xs ++ ys) = trFeeds xs ++ trFeeds ys := by
  simp [trFeeds]

end Sys2Proof.Machine
end

