-- ==== Sys2Proof/Tests/Slice0.lean ====
section
/-!
SUPPORT. The model's own tests: what the well-formedness checks refuse, the decoding of words written out from
30_encoding.md R85, single steps with the results the spec states for them, and for every statement with
hypotheses a concrete state that meets them, clause by clause at the ends of their ranges.
-/

open Sys2Proof Sys2Proof.Machine

namespace Sys2Proof.Tests

/-! ## Small states -/

/-- The state at reset with another R→T decoder. -/
def onRt (r : RtState) : State := { State.reset with rt := r }

/-- The state at reset with another T→R decoder. -/
def onTr (t : TrState) : State := { State.reset with tr := t }

/-- The state at reset with another control unit. -/
def onCtl (c : Ctl) : State := { State.reset with ctl := c }

/-- The state at reset with the command `c` as the one the host issues next. -/
def onCommand (c : Command) : State := { State.reset with stream := [c] }

/-- This hardware built without the CRC unit (R87). -/
def noCrcParams : Params := { Params.hardware with hasCrc := false }

/-- The state at reset of the hardware without the CRC unit, with a CRC command issued. -/
def noCrcState : State :=
  { State.reset with params := noCrcParams, stream := [{ cmd := 0x65#8, list := none }] }

/-- A list one byte longer than the hardware takes (R83). -/
def longList : List Byte := List.replicate 65 0x00#8

/-- The state an outcome carries, for the tests: the given one where there is none. -/
def after (o : Host.Outcome State Fault Refusal) (s : State) : State :=
  match o with
  | .next t => t
  | .fault _ => s
  | .refused _ => s

/-- The result a command hands back. -/
def resultOf (i : Instr) (s : State) : Option Result := (after (exec i s) s).results.head?

/-- The R→T decoder of the trace of vector R-1 after its sample 50: RECV, one slot examined, a frame of one
byte in the buffer, the EOF drop held in `RT.prev`. -/
def rtAtEof : RtState :=
  { RtState.por with
    prev := 0x0#4, high := 8#4, phase := .recv, p := 6#3, sph := 2#2, slot := 1#9, buf := [0x0A#8] }

/-- The R→T decoder in SOC, in the SOF group. -/
def rtInSoc : RtState := { rtAtEof with phase := .soc, buf := [] }

/-- The R→T decoder in RECV with its next measurement a second half in slot `k + 1`. -/
def rtSecond (prev : Nib) (mode : RtMode) (k d : BitVec 9) (bits : BitVec 3) : RtState :=
  { rtAtEof with prev := prev, mode := mode, half := true, slot := k, drop := d, bits := bits, sr := 0xA0#8 }

/-- A T→R decoder past its warm-up, synchronized in the given phase on sub-sample 3. -/
def trIn (phase : TrPhase) (half : Bool) (sub : TrSub) (w0 w1 : Nib) : TrState :=
  { TrState.por with w0 := w0, w1 := w1, warm := 3#2, phase := phase, half := half, sub := sub }

/-! ## What well-formedness refuses -/

theorem test_wellFormed_refuses_long_list :
    (Instr.encRt longList).wellFormed Params.hardware = false
      ∧ (Instr.encRt (longList.drop 1)).wellFormed Params.hardware = true := by decide

theorem test_wellFormed_refuses_long_list_of_each_list_command :
    (Instr.encTr longList).listFits Params.hardware = false
      ∧ (Instr.crcCompute longList).listFits Params.hardware = false
      ∧ (Instr.crcCheckL longList).listFits Params.hardware = false := by decide

theorem test_wellFormed_refuses_crc_without_unit :
    (Instr.crcCompute []).wellFormed noCrcParams = false ∧ (Instr.crcCheckL []).wellFormed noCrcParams = false
      ∧ Instr.crcCheckRt.wellFormed noCrcParams = false ∧ Instr.crcCheckTr.wellFormed noCrcParams = false
      ∧ (Instr.encRt []).wellFormed noCrcParams = true := by decide

/-! ## Decoding, from words written out as R85 writes them -/

theorem test_decode_rtFeed : decodeTableWord 8 0b00011010 = some (.rtFeed 0xA#4) := by decide

theorem test_decode_trFeed : decodeTableWord 8 0b00100101 = some (.trFeed 0x5#4) := by decide

theorem test_decode_rtReset : decodeTableWord 8 0b01000000 = some .rtReset := by decide

theorem test_decode_trReset : decodeTableWord 8 0b01000001 = some .trReset := by decide

theorem test_decode_blkReset : decodeTableWord 8 0b01000010 = some .blkReset := by decide

theorem test_decode_encRt : decodeTableWord 8 0b01010000 = some (.encRt []) := by decide

theorem test_decode_encTr : decodeTableWord 16 0b0000101001010001 = some (.encTr [0x0A#8]) := by decide

theorem test_decode_encTrSof : decodeTableWord 8 0b01010010 = some .encTrSof := by decide

theorem test_decode_crcCompute :
    decodeTableWord 24 0b000000100000000101100000 = some (.crcCompute [0x01#8, 0x02#8]) := by decide

theorem test_decode_crcCheckL : decodeTableWord 8 0b01100100 = some (.crcCheckL []) := by decide

theorem test_decode_crcCheckRt : decodeTableWord 8 0b01100101 = some .crcCheckRt := by decide

theorem test_decode_crcCheckTr : decodeTableWord 8 0b01100110 = some .crcCheckTr := by decide

theorem test_decode_rtRead : decodeTableWord 8 0b01110000 = some .rtRead := by decide

theorem test_decode_trRead : decodeTableWord 8 0b01110001 = some .trRead := by decide

theorem test_decode_statusRead : decodeTableWord 8 0b01110010 = some .statusRead := by decide

/-- The four refusals, by name (R262). -/
theorem test_decode_refuses_by_name :
    decode Params.hardware { cmd := 0x30#8, list := none } = .error .reserved
      ∧ decode noCrcParams { cmd := 0x60#8, list := none } = .error .noCrc
      ∧ decode Params.hardware { cmd := 0x60#8, list := none } = .error .shape
      ∧ decode Params.hardware { cmd := 0x40#8, list := some [] } = .error .shape
      ∧ decode Params.hardware { cmd := 0x64#8, list := some longList } = .error .listTooLong := by decide

/-- Assembler lines as R89 writes them. -/
theorem test_assemblyLine :
    assemblyLine (.rtFeed 0xF#4) = "RT_FEED 0xF" ∧ assemblyLine (.encRt [0x0A#8]) = "ENC_RT [0x0A]"
      ∧ assemblyLine (.encTr []) = "ENC_TR []" := by decide

/-- The written lines of R89 and R90, read. -/
theorem test_readLine :
    readLine "RT_FEED 0xF ; high".toList = some (.rtFeed 0xF#4)
      ∧ readLine "CRC_COMPUTE [0x01]".toList = some (.crcCompute [0x01#8])
      ∧ readLine "ENC_TR []".toList = some (.encTr [])
      ∧ readLine (assemblyLine (.encRt [0x0A#8, 0xC6#8])).toList = some (.encRt [0x0A#8, 0xC6#8])
      ∧ readLine "ENC_RT".toList = none
      ∧ trFeedsOfDigits "0F".toList = some [.trFeed 0x0#4, .trFeed 0xF#4] := by decide

/-- A placed table word is the command the next step runs. -/
theorem test_step_runs_the_placed_word :
    after (step (State.reset.withFetchWord 8 0x72)) State.reset =
      { State.reset with results := [.status 0x00#8] } := by decide

/-! ## One step of each command, with the spec's stated results -/

/-- Row 51 of the trace of vector R-1: the frame {[0x0A], 0, [1], 2} is handed over. -/
theorem test_rtFeed_completes :
    resultOf (.rtFeed 0xF#4) (onRt rtAtEof) = some (.feed true)
      ∧ (after (exec (.rtFeed 0xF#4) (onRt rtAtEof)) State.reset).ctl.rtOut =
        { bytes := [0x0A#8], tb := 0#3, par := [true], sph := 2#2 } := by decide

/-- Rows `X = E` of the sync position table: the pair that straddles the two samples, and the one that does
not. -/
theorem test_rtFeed_sync_position :
    let s := onRt { RtState.por with prev := 0xE#4, high := 8#4 }
    (after (exec (.rtFeed 0x0#4) s) s).rt.p = 3#3 ∧ (after (exec (.rtFeed 0x0#4) s) s).rt.sph = 3#2
      ∧ (after (exec (.rtFeed 0xF#4) s) s).rt.p = 4#3 ∧ (after (exec (.rtFeed 0xF#4) s) s).rt.sph = 0#2 := by
  decide

/-- Row 14 of the trace of vector T-2: the second data bit, a 1, enters at bit 7. -/
theorem test_trFeed_shifts_in :
    let s := onTr { trIn .data true .none 0x0#4 0xF#4 with w0 := 0xF#4, w1 := 0xF#4, bc := 1#4 }
    (after (exec (.trFeed 0x0#4) s) s).tr.sr = 0x80#8 ∧ (after (exec (.trFeed 0x0#4) s) s).tr.bc = 2#4
      ∧ (after (exec (.trFeed 0x0#4) s) s).tr.sub = .second := by decide

/-- The end of vector T-4: three bits `1 0 1` and the lead-in, tb = 3 (R164); and the same three bits with a
lead-in of 1, which the decoder drops (D22, R66). -/
theorem test_trFeed_partial_byte :
    let s := onTr { trIn .eoff true .first 0x0#4 0x0#4 with bc := 4#4, sr := 0x50#8, buf := [0xA5#8] }
    let t := { s with tr := { s.tr with sr := 0xD0#8 } }
    (after (exec (.trFeed 0x0#4) s) s).ctl.trOut =
      { bytes := [0xA5#8, 0x05#8], tb := 3#3, par := [true, true], sph := 0#2 }
      ∧ (after (exec (.trFeed 0x0#4) t) t).ctl.trOut = (after (exec (.trFeed 0x0#4) s) s).ctl.trOut := by decide

/-- The example of R121. -/
theorem test_rtReset :
    let t := after (exec .rtReset (onRt rtAtEof)) State.reset
    t.rt.phase = .unsync ∧ t.rt.buf = [] ∧ t.rt.high = 0#4 ∧ t.ctl = Ctl.por ∧ t.rt.prev = 0x0#4 := by decide

/-- The example of R176. -/
theorem test_trReset :
    let t := after (exec .trReset (onTr { trIn .data false .first 0xF#4 0x3#4 with bc := 5#4 })) State.reset
    t.tr.phase = .unsync ∧ t.tr.bc = 0#4 ∧ t.tr.buf = [] ∧ t.tr.w0 = 0xF#4 ∧ t.tr.w1 = 0x3#4 := by decide

/-- The example of R250: STATUS reads 0x00 after BLK_RESET. -/
theorem test_blkReset :
    let t := after (exec .blkReset { onRt rtAtEof with ctl := { Ctl.por with rtDone := true } }) State.reset
    resultOf .statusRead t = some (.status 0x00#8) := by decide

/-- The example of R210. -/
theorem test_encRt :
    resultOf (.encRt [0x0A#8]) State.reset = some (.samples
      [0x0, 0xF, 0xF, 0xF, 0xF, 0x0, 0xF, 0xF, 0xF, 0xF, 0xF, 0xF, 0xF, 0x0, 0xF, 0xF, 0xF, 0xF, 0xF, 0xF,
       0xF, 0x0, 0xF, 0xF, 0xF, 0x0, 0xF, 0xF, 0xF, 0xF, 0xF, 0xF, 0xF, 0x0, 0xF, 0xF, 0xF, 0xF, 0xF, 0xF,
       0xF, 0xF, 0x0, 0xF]) := by decide

/-- The example of R211. -/
theorem test_encTr :
    resultOf (.encTr [0x0A#8]) State.reset = some (.samples
      [0x0, 0x0, 0x0, 0xF, 0xF, 0xF, 0x0, 0xF, 0xF, 0x0, 0x0, 0xF, 0xF, 0x0, 0x0, 0xF, 0xF, 0x0, 0xF, 0x0,
       0xF, 0x0, 0xF, 0x0, 0xF, 0x0, 0xF, 0xF, 0xF, 0x0, 0x0, 0x0]) := by decide

/-- The example of R212. -/
theorem test_encTrSof :
    resultOf .encTrSof State.reset = some (.samples [0x0, 0x0, 0x0, 0xF, 0xF, 0xF, 0x0, 0xF]) := by decide

/-- The example of R240. -/
theorem test_crcCompute :
    resultOf (.crcCompute [0x05#8]) State.reset = some (.crcBytes 0xDE#8 0x64#8) := by decide

/-- The examples of R241. -/
theorem test_crcCheckL :
    resultOf (.crcCheckL [0x05#8, 0xDE#8, 0x64#8]) State.reset = some (.ok true)
      ∧ resultOf (.crcCheckL [0x05#8, 0x64#8, 0xDE#8]) State.reset = some (.ok false) := by decide

/-- The example of R242. -/
theorem test_crcCheckRt :
    resultOf .crcCheckRt (onCtl { Ctl.por with
      rtOut := { Frame.empty with bytes := [0x05#8, 0xDE#8, 0x64#8] } }) = some (.ok true) := by decide

/-- The example of R243, and the same bytes as a partial frame. -/
theorem test_crcCheckTr :
    let f : Frame := { Frame.empty with bytes := List.replicate 8 0xAA#8 ++ [0xC6#8, 0x70#8] }
    resultOf .crcCheckTr (onCtl { Ctl.por with trOut := f }) = some (.ok true)
      ∧ resultOf .crcCheckTr (onCtl { Ctl.por with trOut := { f with tb := 3#3 } }) = some (.ok false) := by
  decide +kernel

/-- The example of R122: done is reported once. -/
theorem test_rtRead :
    let f : Frame := { bytes := [0x0A#8], tb := 0#3, par := [true], sph := 2#2 }
    let s := onCtl { Ctl.por with rtOut := f, rtDone := true }
    resultOf .rtRead s = some (.frame f true false)
      ∧ resultOf .rtRead (after (exec .rtRead s) s) = some (.frame f false false) := by decide

/-- The example of R177. -/
theorem test_trRead :
    let f : Frame := { bytes := [0x0A#8], tb := 0#3, par := [true], sph := 0#2 }
    let s := onCtl { Ctl.por with trOut := f, trDone := true }
    resultOf .trRead s = some (.frame f true false)
      ∧ resultOf .trRead (after (exec .trRead s) s) = some (.frame f false false) := by decide

/-- The examples of R251: an unread R→T frame, without and with a synchronized T→R decoder. -/
theorem test_statusRead :
    let s := onCtl { Ctl.por with rtDone := true }
    resultOf .statusRead s = some (.status 0x01#8)
      ∧ resultOf .statusRead { s with tr := trIn .soc2 true .none 0x0#4 0x0#4 } = some (.status 0x41#8) := by
  decide

/-! ## Witnesses: states that meet the hypotheses of the statements -/

theorem witness_DecodeAcceptsExactlyTheEncodings :
    decode Params.hardware { cmd := 0x1F#8, list := none } = .ok (.rtFeed 0xF#4)
      ∧ (Instr.encTr (longList.drop 1)).wellFormed Params.hardware = true := by decide

/-- The ends of each reserved range of R86. -/
theorem witness_ReservedCommandIsRefusedAndChangesNoUnit :
    [0x00#8, 0x0F#8, 0x30#8, 0x3F#8, 0x43#8, 0x4F#8, 0x53#8, 0x5F#8, 0x61#8, 0x63#8, 0x67#8, 0x6F#8, 0x73#8,
      0x7F#8, 0x80#8, 0xFF#8].all reservedByte = true
      ∧ [0x10#8, 0x2F#8, 0x40#8, 0x42#8, 0x50#8, 0x52#8, 0x60#8, 0x64#8, 0x66#8, 0x70#8, 0x72#8].any reservedByte
        = false
      ∧ (onCommand { cmd := 0xFF#8, list := some [] }).stream = [{ cmd := 0xFF#8, list := some [] }] := by decide

theorem witness_RefusalsAreCheckedInOrderAndTheMarkStays :
    (onCommand { cmd := 0x80#8, list := none }).stream = [{ cmd := 0x80#8, list := none }]
      ∧ (reservedByte 0x0F#8 = true ∧ reservedByte 0x80#8 = true)
      ∧ (reservedByte 0x60#8 = false ∧ crcCommandByte 0x60#8 = true ∧ noCrcState.params.hasCrc = false)
      ∧ (reservedByte 0x40#8 = false ∧ crcCommandByte 0x40#8 = false
        ∧ (listByte 0x40#8 = true ↔ some [0x00#8] = none))
      ∧ (crcCommandByte 0x60#8 = true ∧ State.reset.params.hasCrc = true ∧ listByte 0x60#8 = true)
      ∧ (listByte 0x64#8 = true ∧ State.reset.params.maxListBytes < longList.length)
      ∧ (∃ t, step { State.reset with refusalMark := true } = .next t)
      ∧ ¬ State.Safe { State.reset with refusalMark := true } := by
  refine ⟨by decide, by decide, by decide, by decide, by decide, by decide, ⟨_, rfl⟩, by decide⟩

theorem witness_OnlyRefusedCommandsSetTheMark :
    decode State.reset.params { cmd := 0x72#8, list := none } = .ok .statusRead
      ∧ ∃ t, step (onCommand { cmd := 0x72#8, list := none }) = .next t := by
  refine ⟨by decide, ⟨_, rfl⟩⟩

theorem witness_WithoutCrcUnitCommandsAreRefusedAndCrcOkStaysClear :
    [0x60#8, 0x64#8, 0x65#8, 0x66#8].all crcCommandByte = true
      ∧ noCrcState.params.hasCrc = false ∧ noCrcState.stream = [{ cmd := 0x65#8, list := none }]
      ∧ noCrcState.ctl.crcOk = false ∧ ∃ t, step noCrcState = .next t := by
  refine ⟨by decide, by decide, by decide, by decide, ⟨_, rfl⟩⟩

theorem witness_StepRunsTheNextDecodedCommand :
    (onCommand { cmd := 0x50#8, list := some [0x0A#8] }).stream = [{ cmd := 0x50#8, list := some [0x0A#8] }]
      ∧ decode State.reset.params { cmd := 0x50#8, list := some [0x0A#8] } = .ok (.encRt [0x0A#8]) := by decide

theorem witness_IdleStepHoldsTheState : State.reset.stream = [] := by decide

theorem witness_EveryStepAnswersAndHandsBackOneResult :
    State.reset.stream = [] ∧ (onCommand { cmd := 0x00#8, list := none }).stream ≠ [] := by decide

theorem witness_EveryCommandReturnsTheResultOfItsRow :
    Instr.crcCheckRt.wellFormed State.reset.params = true
      ∧ (Instr.encRt longList).wellFormed State.reset.params = false
      ∧ decode State.reset.params { cmd := 0x60#8, list := none } = .error .shape := by decide

theorem witness_PowerOnLeavesTheTableValues : ∃ t, exec .blkReset (onRt rtAtEof) = .next t := ⟨_, rfl⟩

/-- R102 to R104: no drop, also at the saturated count; a drop one sample too soon; a drop after exactly 8, at
the last and at the first sub-sample. -/
theorem witness_RtSearchCountsHighSamplesAndEntersSync :
    RtState.por.phase = .unsync ∧ RtState.por.prev = 0xF#4
      ∧ ({ RtState.por with prev := 0x0#4, high := 7#4 } : RtState).high.toNat < 8
      ∧ (8 ≤ ({ RtState.por with prev := 0x7#4, high := 8#4 } : RtState).high.toNat
        ∧ (0x7#4).getLsbD 3 = false ∧ ∀ k : Fin 4, 3 < k.val → (0x7#4).getLsbD k.val = true)
      ∧ ((0xE#4).getLsbD 0 = false ∧ ∀ k : Fin 4, 0 < k.val → (0xE#4).getLsbD k.val = true) := by decide

theorem witness_RtFirstHalfCompletesResetsOrCounts :
    (rtAtEof.phase ≠ .unsync ∧ rtAtEof.half = false)
      ∧ rtHalfDropped { rtAtEof with prev := 0xF#4 } 0xF#4 = false
      ∧ (rtInSoc.phase = .soc ∧ ({ rtInSoc with slot := 0#9 } : RtState).slot ≠ 1#9)
      ∧ ({ rtInSoc with slot := 2#9 } : RtState).slot ≠ 1#9
      ∧ (rtHalfDropped rtAtEof 0xF#4 = true ∧ rtAtEof.slot = 1#9 ∧ rtAtEof.phase = .recv)
      ∧ (rtHalfDropped rtInSoc 0xF#4 = true ∧ (rtInSoc.slot = 1#9 ↔ rtInSoc.phase = .soc))
      ∧ (({ rtAtEof with slot := 2#9 } : RtState).slot = 1#9 ↔ rtAtEof.phase = .soc) := by decide

theorem witness_RtSecondHalfCountsTheSlotAndRecordsTheDrop :
    ((rtSecond 0x0#4 .oneOfFour 3#9 1#9 0#3).half = true
        ∧ rtHalfDropped (rtSecond 0x0#4 .oneOfFour 3#9 1#9 0#3) 0xF#4 = true
        ∧ (rtSecond 0x0#4 .oneOfFour 3#9 1#9 0#3).drop ≠ 0#9)
      ∧ (rtHalfDropped (rtSecond 0x0#4 .oneOfFour 2#9 0#9 0#3) 0xF#4 = true
        ∧ (rtSecond 0x0#4 .oneOfFour 2#9 0#9 0#3).drop = 0#9 ∧ (2#9).toNat + 1 < 4)
      ∧ (rtHalfDropped (rtSecond 0xF#4 .oneOfTwoFiveSix 254#9 254#9 0#3) 0xF#4 = false
        ∧ (254#9).toNat + 1 < 256) := by decide

theorem witness_RtSofGroupSelectsTheMode :
    let r : RtState := { rtInSoc with half := true, slot := 3#9 }
    (r.phase = .soc ∧ r.mode = .oneOfFour ∧ r.half = true ∧ r.slot = 3#9)
      ∧ (rtHalfDropped { r with prev := 0x0#4 } 0xF#4 = true ∧ r.drop = 0#9)
      ∧ (rtHalfDropped { r with prev := 0xF#4, drop := 3#9 } 0xF#4 = false)
      ∧ (rtHalfDropped { r with prev := 0xF#4, drop := 2#9 } 0xF#4 = false) := by decide

theorem witness_RtPairGroupShiftsInTwoBits :
    let r := rtSecond 0xF#4 .oneOfFour 3#9 0#9 0#3
    (r.phase = .recv ∧ r.mode = .oneOfFour ∧ r.half = true ∧ r.slot = 3#9)
      ∧ (rtHalfDropped r 0xF#4 = false ∧ r.drop.toNat = 0)
      ∧ ((rtSecond 0xF#4 .oneOfFour 3#9 1#9 4#3).drop.toNat = 1 ∧ (4#3).toNat < 6)
      ∧ (rtHalfDropped (rtSecond 0x0#4 .oneOfFour 3#9 0#9 6#3) 0xF#4 = true
        ∧ (rtSecond 0x0#4 .oneOfFour 3#9 0#9 6#3).buf.length ≠ State.reset.params.maxFrameBytes)
      ∧ ({ rtSecond 0x0#4 .oneOfFour 3#9 0#9 6#3 with buf := longList.drop 1 } : RtState).buf.length
        = State.reset.params.maxFrameBytes := by decide

theorem witness_RtByteGroupAppendsTheSlotIndex :
    let r := rtSecond 0xF#4 .oneOfTwoFiveSix 255#9 0#9 0#3
    (r.phase = .recv ∧ r.mode = .oneOfTwoFiveSix ∧ r.half = true ∧ r.slot = 255#9)
      ∧ (rtHalfDropped r 0xF#4 = false ∧ r.drop.toNat = 0)
      ∧ (rtHalfDropped (rtSecond 0x0#4 .oneOfTwoFiveSix 255#9 0#9 0#3) 0xF#4 = true
        ∧ r.buf.length ≠ State.reset.params.maxFrameBytes)
      ∧ ({ rtSecond 0xF#4 .oneOfTwoFiveSix 255#9 1#9 0#3 with buf := longList.drop 1 } : RtState).buf.length
        = State.reset.params.maxFrameBytes := by decide

theorem witness_RtFeedHandsOverAFrameOnlyAtEndOfCommunication :
    (rtAtEof.phase = .recv ∧ rtAtEof.half = false ∧ rtAtEof.slot = 1#9 ∧ rtHalfDropped rtAtEof 0xF#4 = true)
      ∧ ¬ (rtInSoc.phase = .recv) := by decide

/-- R293: the three lead-ins, at their shortest. -/
theorem witness_IdleLeadInReadiesTheRtDecoder :
    let r : RtState := { RtState.por with prev := 0x0#4 }
    (RtState.por.phase = .unsync ∧ RtState.por.high = 0#4 ∧ (7 ≤ 7 ∧ RtState.por.prev = 0xF#4))
      ∧ (r.phase = .unsync ∧ r.high = 0#4 ∧ 8 ≤ 8) := by decide

theorem witness_TrFeedShiftsTheWindowAndWarmsUp :
    TrState.por.warm.toNat < 3 ∧ ({ TrState.por with warm := 2#2 } : TrState).warm.toNat < 3
      ∧ (trIn .unsync false .none 0x0#4 0x0#4).warm = 3#2
      ∧ Instr.trReset ≠ .blkReset ∧ (∀ x, Instr.trReset ≠ .trFeed x) ∧ ∃ t, exec .trReset State.reset = .next t := by
  refine ⟨by decide, by decide, by decide, by decide, ?_, _, rfl⟩
  intro _ h
  cases h

theorem witness_TrSearchConfirmsTheHighestHeldSubSample :
    let t := trIn .unsync false .none 0xF#4 0x1#4
    (t.warm = 3#2 ∧ t.phase = .unsync)
      ∧ (∀ k : Fin 4, ¬ ((0xA#4).getLsbD k.val = true ∧ (0x5#4).getLsbD k.val = true))
      ∧ (t.w0.getLsbD 0 = true ∧ t.w1.getLsbD 0 = true
        ∧ ∀ m : Fin 4, 0 < m.val → ¬ (t.w0.getLsbD m.val = true ∧ t.w1.getLsbD m.val = true))
      ∧ t.w2.getLsbD 0 = false ∧ ({ t with w2 := 0x1#4 } : TrState).w2.getLsbD 0 = true := by decide

theorem witness_TrFirstHalfRecordsModulation :
    let t := trIn .data false .first 0x0#4 0x0#4
    t.warm = 3#2 ∧ t.phase ≠ .unsync ∧ t.half = false := by decide

theorem witness_TrNeitherHalfAcknowledgesOrResets :
    let t := trIn .sofc true .none 0x0#4 0x0#4
    (t.warm = 3#2 ∧ t.half = true ∧ PeriodSymbol t.sub (trHalfModulated t) .none ∧ t.phase = .sofc)
      ∧ ((trIn .eoff true .none 0x0#4 0x0#4).phase ≠ .sofc
        ∧ (trIn .eoff true .none 0x0#4 0x0#4).phase ≠ .unsync) := by
  decide

theorem witness_TrSofStagesAdvanceOrWait :
    (let t := trIn .soc1 true .first 0xF#4 0x0#4;
      t.warm = 3#2 ∧ t.half = true ∧ PeriodSymbol t.sub (trHalfModulated t) .both)
      ∧ (let t := trIn .soc2 true .none 0xF#4 0x0#4;
        t.warm = 3#2 ∧ t.half = true ∧ PeriodSymbol t.sub (trHalfModulated t) .second)
      ∧ (let t := trIn .soc3 true .none 0xF#4 0x0#4;
        t.warm = 3#2 ∧ t.half = true ∧ PeriodSymbol t.sub (trHalfModulated t) .second)
      ∧ (let t := trIn .soc1 true .first 0x0#4 0x0#4;
        PeriodSymbol t.sub (trHalfModulated t) .first ∧ TrSub.first ≠ .both)
      ∧ (let t := trIn .soc2 true .first 0xF#4 0x0#4;
        PeriodSymbol t.sub (trHalfModulated t) .both ∧ TrSub.both ≠ .second)
      ∧ (let t := trIn .soc3 true .first 0x0#4 0x0#4;
        PeriodSymbol t.sub (trHalfModulated t) .first ∧ TrSub.first ≠ .second) := by
  refine ⟨by decide, by decide, by decide, by decide, by decide, by decide⟩

theorem witness_TrDataSymbolIsShiftedInAfterTheFlush :
    (let t := trIn .sofc true .first 0xF#4 0x0#4;
      t.warm = 3#2 ∧ t.half = true ∧ PeriodSymbol t.sub (trHalfModulated t) .both)
      ∧ (let t := { trIn .data true .none 0xF#4 0x0#4 with bc := 7#4 };
        PeriodSymbol t.sub (trHalfModulated t) .second ∧ t.bc.toNat < 8)
      ∧ (let t := { trIn .data true .first 0x0#4 0x0#4 with bc := 8#4 };
        PeriodSymbol t.sub (trHalfModulated t) .first ∧ t.bc = 8#4
          ∧ t.buf.length ≠ State.reset.params.maxFrameBytes)
      ∧ (longList.drop 1).length = State.reset.params.maxFrameBytes := by decide

theorem witness_TrEndOfFrameHandsOverBytesAndTrailingBits :
    let t := trIn .eoff true .first 0x0#4 0x0#4
    (t.warm = 3#2 ∧ t.half = true ∧ t.phase = .eoff ∧ PeriodSymbol t.sub (trHalfModulated t) .first)
      ∧ (t.buf = [] ∧ t.bc = 0#4)
      ∧ (({ t with bc := 1#4 } : TrState).bc ≠ 0#4 ∧ ({ t with bc := 1#4 } : TrState).bc.toNat < 2)
      ∧ (2 ≤ ({ t with bc := 2#4 } : TrState).bc.toNat ∧ t.buf.length ≠ State.reset.params.maxFrameBytes)
      ∧ (2 ≤ ({ t with bc := 8#4 } : TrState).bc.toNat ∧ ({ t with bc := 8#4 } : TrState).bc.toNat ≤ 8)
      ∧ ({ t with buf := longList.drop 1 } : TrState).buf.length = State.reset.params.maxFrameBytes := by decide

theorem witness_TrErrorWaitLastsOneBitPeriod :
    let t := trIn .errw false .both 0x0#4 0xF#4
    t.warm = 3#2 ∧ t.phase = .errw ∧ t.half = false := by decide

theorem witness_DecodersAreIndependent :
    (touchesTr (.rtFeed 0x0#4) = false ∧ ∃ t, exec (.rtFeed 0x0#4) (onRt rtAtEof) = .next t)
      ∧ (touchesRt .trRead = false ∧ ∃ t, exec .trRead (onRt rtAtEof) = .next t) := by
  refine ⟨⟨by decide, _, rfl⟩, by decide, _, rfl⟩

/-- The longest list, and one byte more. -/
theorem witness_EncRtAndEncTr :
    (longList.drop 1).length ≤ State.reset.params.maxListBytes ∧ State.reset.params.maxListBytes < longList.length
      ∧ State.reset.params.maxListBytes = 64 := by decide

theorem witness_EncTrSofReturnsThePreambleThatDecodesAsTheAck :
    State.reset.tr.phase = .unsync ∧ State.reset.tr.w0 = 0#4 ∧ State.reset.tr.w1 = 0#4
      ∧ State.reset.tr.w2 = 0#4 := by decide

/-- Both ends of the count that makes a decoder ready, the empty list and the longest one. -/
theorem witness_RtDecoderInvertsEncRt :
    let r : RtState := { RtState.por with high := 7#4 }
    (r.phase = .unsync ∧ r.prev = 0xF#4 ∧ 7 ≤ r.high.toNat ∧ r.high.toNat ≤ 8) ∧ (8#4).toNat ≤ 8
      ∧ (longList.drop 1).length ≤ min State.reset.params.maxListBytes State.reset.params.maxFrameBytes := by
  decide

theorem witness_TrDecoderInvertsEncTr :
    ([] : List Byte).length ≤ min State.reset.params.maxListBytes State.reset.params.maxFrameBytes
      ∧ State.reset.tr.phase = .unsync ∧ State.reset.tr.w0 = 0#4 ∧ State.reset.tr.w1 = 0#4
      ∧ State.reset.tr.w2 = 0#4 := by decide

/-- One bit and seven bits of the byte that still fits. -/
theorem witness_TrDecoderRecoversAPartialFinalByte :
    (1 ≤ 1 ∧ 7 ≤ 7) ∧ (longList.drop 2).length + 1 ≤ State.reset.params.maxFrameBytes
      ∧ State.reset.tr.phase = .unsync ∧ State.reset.tr.w0 = 0#4 ∧ State.reset.tr.w1 = 0#4
      ∧ State.reset.tr.w2 = 0#4 := by decide

theorem witness_ByteWiseCrcAgrees : Params.hardware.crcPoly = 0x8408#16 := by decide

theorem witness_CrcCheckIsAZeroResidue :
    Params.hardware.crcPoly = 0x8408#16 ∧ 2 ≤ [0x12#8, 0xE0#8].length
      ∧ crcOk Params.hardware [0x12#8, 0xE0#8] 0#3 = true := by decide

theorem witness_CrcCommands :
    State.reset.params.hasCrc = true ∧ noCrcParams.hasCrc = false
      ∧ (longList.drop 1).length ≤ State.reset.params.maxListBytes
      ∧ State.reset.params.maxListBytes < longList.length
      ∧ [0x05#8].length < 2 := by decide

theorem witness_CrcChecksOfTheLatchesWriteCrcOk :
    State.reset.params.hasCrc = true ∧ noCrcParams.hasCrc = false
      ∧ (onCtl { Ctl.por with trOut := { Frame.empty with tb := 1#3 } }).ctl.trOut.tb ≠ 0#3 := by decide

theorem witness_EachFlagIsWrittenOnlyByItsCommands :
    (∃ t, exec .statusRead State.reset = .next t) ∧ (∀ x, Instr.statusRead ≠ .rtFeed x)
      ∧ (∀ x, Instr.statusRead ≠ .trFeed x) ∧ (∀ l, Instr.statusRead ≠ .crcCheckL l)
      ∧ Instr.statusRead ≠ .rtRead ∧ Instr.statusRead ≠ .blkReset := by
  refine ⟨⟨_, rfl⟩, ?_, ?_, ?_, by decide, by decide⟩ <;> intro _ h <;> cases h

/-- A synchronized decoder in the middle of a frame is legal, and its step answers. -/
theorem witness_EveryStepKeepsTheMachineLegal :
    let s : State := { onRt rtAtEof with stream := [{ cmd := 0x1F#8, list := none }] }
    State.Inv s ∧ ∃ t, step s = .next t := by
  refine ⟨⟨by decide, by decide, by decide, by decide, by decide⟩, ⟨_, rfl⟩⟩

end Sys2Proof.Tests
end

section
/-!
PROOFS. The two decoders are independent (10_state.md R53). Replacing the contents of both decoders commutes
with every operation the encoder, the CRC checker and the reads are made of; so it commutes with every command
that touches neither decoder, and replacing one decoder commutes with every command that does not touch that one.
-/

namespace Sys2Proof.Machine

/-! ## Replacing the decoders -/

/-- The state with other contents of both decoders. -/
def State.withDecoders (r : RtState) (u : TrState) (s : State) : State := { s with rt := r, tr := u }

@[simp] theorem State.withDecoders_params (r : RtState) (u : TrState) (s : State) :
    (s.withDecoders r u).params = s.params := rfl

@[simp] theorem State.withDecoders_ctl (r : RtState) (u : TrState) (s : State) :
    (s.withDecoders r u).ctl = s.ctl := rfl

@[simp] theorem State.answer_withDecoders (x : Result) (r : RtState) (u : TrState) (s : State) :
    (s.withDecoders r u).answer x = (s.answer x).withDecoders r u := rfl

@[simp] theorem State.refuse_withDecoders (cause : RefusalCause) (r : RtState) (u : TrState) (s : State) :
    (s.withDecoders r u).refuse cause = (s.refuse cause).withDecoders r u := rfl

@[simp] theorem State.checkCrc_withDecoders (ok : Bool) (r : RtState) (u : TrState) (s : State) :
    (s.withDecoders r u).checkCrc ok = (s.checkCrc ok).withDecoders r u := rfl

/-- The CRC guard decides, and refuses, alike on every content of the decoders. -/
@[simp] theorem State.whenCrc_withDecoders (r : RtState) (u : TrState) (s go : State) :
    (s.withDecoders r u).whenCrc (go.withDecoders r u) = (s.whenCrc go).withDecoders r u := by
  rcases State.whenCrc_cases s go with ⟨hp, h⟩ | ⟨ha, h⟩ <;> rw [h]
  · exact State.whenCrc_present hp
  · exact State.whenCrc_absent ha

/-- The list guard decides, and refuses, alike on every content of the decoders. -/
@[simp] theorem State.whenListFits_withDecoders (l : List Byte) (r : RtState) (u : TrState) (s go : State) :
    (s.withDecoders r u).whenListFits l (go.withDecoders r u) = (s.whenListFits l go).withDecoders r u := by
  rcases State.whenListFits_cases l s go with ⟨hle, h⟩ | ⟨hlt, h⟩ <;> rw [h]
  · exact State.whenListFits_of_le hle
  · exact State.whenListFits_of_lt hlt

/-! ## What a command does not touch -/

/-- The state with other contents of those decoders that the command may not touch (R53). -/
def State.replaceUntouched (i : Instr) (r : RtState) (u : TrState) (s : State) : State :=
  s.withDecoders (if touchesRt i then s.rt else r) (if touchesTr i then s.tr else u)

theorem State.replaceUntouched_self (i : Instr) (s : State) : s.replaceUntouched i s.rt s.tr = s := by
  simp [State.replaceUntouched, State.withDecoders]

/-- Every command runs alike on every content of the decoders it may not touch. The commands of a direction read
and write their decoder, the control unit and the results alone; the encoder and the CRC checker touch neither
decoder, and their guards do not look at one. -/
theorem exec_replaceUntouched {i : Instr} {s t : State} (r : RtState) (u : TrState) (h : exec i s = .next t) :
    exec i (s.replaceUntouched i r u) = .next (t.replaceUntouched i r u) := by
  cases i with
  | rtFeed | rtReset | rtRead | trFeed | trReset | trRead | blkReset | statusRead =>
    obtain rfl := Host.Outcome.next.inj h
    rfl
  | encRt | encTr | encTrSof | crcCompute | crcCheckL | crcCheckRt | crcCheckTr =>
    obtain rfl := Host.Outcome.next.inj h
    simp [State.replaceUntouched, touchesRt, touchesTr]

/-- No command writes a decoder it may not touch: putting back what it found there changes nothing. -/
theorem exec_keeps_untouched {i : Instr} {s t : State} (h : exec i s = .next t) :
    (touchesRt i = false → t.rt = s.rt) ∧ (touchesTr i = false → t.tr = s.tr) := by
  have hrun := exec_replaceUntouched s.rt s.tr h
  rw [State.replaceUntouched_self, h] at hrun
  have ht : t = t.replaceUntouched i s.rt s.tr := Host.Outcome.next.inj hrun
  constructor <;> intro hi <;> rw [ht] <;> simp [State.replaceUntouched, State.withDecoders, hi]

/-- A new content of the T→R decoder alone, for a command that may not touch it. -/
theorem State.replaceUntouched_tr {i : Instr} {r : RtState} {s : State} (u : TrState)
    (htr : touchesTr i = false) (hr : touchesRt i = false → s.rt = r) :
    s.replaceUntouched i r u = { s with tr := u } := by
  cases hrt : touchesRt i <;> simp [State.replaceUntouched, State.withDecoders, htr, hrt, ← hr]

/-- A new content of the R→T decoder alone, for a command that may not touch it. -/
theorem State.replaceUntouched_rt {i : Instr} {u : TrState} {s : State} (r : RtState)
    (hrt : touchesRt i = false) (hu : touchesTr i = false → s.tr = u) :
    s.replaceUntouched i r u = { s with rt := r } := by
  cases htr : touchesTr i <;> simp [State.replaceUntouched, State.withDecoders, htr, hrt, ← hu]

/-- Settles O36: replace the decoder that the command may not touch, and put back what it found in the other
one where it may not touch that one either. -/
theorem decodersAreIndependent : Obligations.DecodersAreIndependent := by
  unfold Obligations.DecodersAreIndependent
  constructor
  · intro i s t u htr h
    obtain ⟨keepsRt, keepsTr⟩ := exec_keeps_untouched h
    have hrun := exec_replaceUntouched s.rt u h
    rw [State.replaceUntouched_tr u htr fun _ => rfl, State.replaceUntouched_tr u htr keepsRt] at hrun
    exact ⟨keepsTr htr, hrun⟩
  · intro i s t r hrt h
    obtain ⟨keepsRt, keepsTr⟩ := exec_keeps_untouched h
    have hrun := exec_replaceUntouched r s.tr h
    rw [State.replaceUntouched_rt r hrt fun _ => rfl, State.replaceUntouched_rt r hrt keepsTr] at hrun
    exact ⟨keepsRt hrt, hrun⟩

end Sys2Proof.Machine
end

section
/-!
PROOFS. The Reader→Tag pulse-position decoder, command by command (40_ppm_decoder.md). An RT_FEED is brought by
the kind of its measurement (R120) to the one operation that decides it: the search (R102), the first half (R108),
or the end of a group (R110). What that operation answers is the law of Sys2Proof/Laws/PpmDecoder.lean about it.
-/

namespace Sys2Proof.Machine

/-! ## The two commands without an operand -/

/-- Bit 5 of the STATUS byte is RT_SYNC (R46). -/
theorem statusByte_getLsbD_five (r : RtState) (t : TrState) (c : Ctl) :
    (statusByte r t c).getLsbD 5 = rtSync r :=
  Option.some.inj (congrArg (·[5]?) (statusByte_bits r t c))

/-- Settles O13: the command byte is the encoding of RT_RESET, whose arm is `RT_GoUnsync` alone; RT_SYNC reads
the phase, which that procedure sets to UNSYNC. -/
theorem rtResetIsTheSilentResetAlone : Obligations.RtResetIsTheSilentResetAlone := by
  unfold Obligations.RtResetIsTheSilentResetAlone
  refine ⟨fun p => Laws.RoundTrip.rtReset p rfl, fun s => ⟨exec_rtReset s, ?_⟩⟩
  rw [statusByte_getLsbD_five]
  rfl

/-- Settles O24: the command byte is the encoding of RT_READ, whose arm hands back the latch as it stood and
then clears the two bits. -/
theorem rtReadReturnsTheLatchAndClearsItsFlags : Obligations.RtReadReturnsTheLatchAndClearsItsFlags := by
  unfold Obligations.RtReadReturnsTheLatchAndClearsItsFlags
  exact ⟨fun p => Laws.RoundTrip.rtRead p rfl, exec_rtRead⟩

/-! ## What an RT_FEED answers -/

/-- An RT_FEED whose procedure returns CONTINUE replaces the decoder and hands back that result. -/
theorem exec_rtFeed_of_continue {x : Nib} {s : State} {r : RtState}
    (h : rtFeed s.params.maxFrameBytes x s.rt s.ctl = continueWith r s.ctl) :
    exec (.rtFeed x) s = .next { s with rt := r, results := .feed false :: s.results } := by
  rw [exec_rtFeed, h]
  rfl

/-- An RT_FEED that completes a frame resets the decoder silently and hands over its buffer (R115). -/
theorem exec_rtFeed_of_complete {x : Nib} {s : State} {r : RtState}
    (h : rtFeed s.params.maxFrameBytes x s.rt s.ctl = rtComplete r s.ctl) :
    exec (.rtFeed x) s = .next { s with
      rt := r.goUnsync none, ctl := s.ctl.latchRt r.frame, results := .feed true :: s.results } := by
  rw [exec_rtFeed, h]
  rfl

/-- The silent reset in a feed of a synchronized decoder, whichever half was counted before it (R101, R116). -/
theorem goUnsync_eq_rtSilentReset (e : Option FramingError) (x : Nib) (h : Bool) (r : RtState) :
    RtState.goUnsync e { r with prev := x, half := h } = rtSilentReset x r := rfl

/-- The measurement of the statements is the decoder's (R101, R106). -/
theorem droppedAt_rtWindow (r : RtState) (x : Nib) :
    droppedAt (rtWindow r.prev x) r.p.toNat = rtHalfDropped r x := rfl

/-- A completion writes the control unit as the statements say (R115). -/
theorem latchRt_frame (r : RtState) (c : Ctl) : c.latchRt r.frame = rtLatched r.buf r.sph c := by
  simp [Ctl.latchRt, RtState.frame, rtLatched, Bool.or_comm]

/-! ## The search -/

/-- The sync position, where `i` is the earliest dropped sub-sample of the previous sample (R104). -/
theorem syncPosition_rtWindow {prev x : Nib} {i : Nat} (hi : i < 4) (hdrop : prev.getLsbD i = false)
    (hearliest : ∀ k, i < k → k < 4 → prev.getLsbD k = true) :
    syncPosition (rtWindow prev x) (~~~prev) =
      BitVec.ofNat 3 (if (prev ++ x).getLsbD (i + 3) = false then i + 3 else i + 4) := by
  have hhighest : highestSet (~~~prev) = i :=
    highestSet_eq _ i hi (by rw [BitVec.getLsbD_not, hdrop]; simp [hi]) fun k hik hk => by
      simp [hk, hearliest k hik hk]
  simp [syncPosition, hhighest, droppedAt, rtWindow, Nat.add_comm 4 i]

/-- The phase of a window position is the position modulo 4 (R105). -/
theorem extractLsb'_two_ofNat_three (q : Nat) :
    (BitVec.ofNat 3 q).extractLsb' 0 2 = BitVec.ofNat 2 (q % 4) := by
  apply BitVec.eq_of_toNat_eq
  simp

/-- An RT_FEED while UNSYNC does what the search does, and hands nothing over (R102). -/
theorem exec_rtFeed_of_search {x : Nib} {s : State} {r : RtState} (hphase : s.rt.phase = .unsync)
    (h : rtSearch (rtWindow s.rt.prev x) { s.rt with prev := x } = r) :
    exec (.rtFeed x) s = .next { s with rt := r, results := .feed false :: s.results } :=
  exec_rtFeed_of_continue (h ▸ rtFeed_unsync hphase)

/-- Settles O15: the three answers of the search, with the sync position of a candidate. -/
theorem rtSearchCountsHighSamplesAndEntersSync : Obligations.RtSearchCountsHighSamplesAndEntersSync := by
  unfold Obligations.RtSearchCountsHighSamplesAndEntersSync
  intro s x hphase
  have hsearch := rtSearch_cases s.rt.prev x { s.rt with prev := x }
  refine ⟨fun hhigh => exec_rtFeed_of_search hphase ?_, fun hlow hcount => exec_rtFeed_of_search hphase ?_,
    fun i hi hdrop hearliest hcount => exec_rtFeed_of_search hphase ?_⟩
  · simpa [hhigh] using hsearch
  · simpa [hlow, hcount, Nat.not_le.mpr hcount] using hsearch
  · have hlow : s.rt.prev ≠ 0xF#4 := by
      intro h
      rw [h] at hdrop
      interval_cases i <;> simp at hdrop
    have hentry : rtSearch (rtWindow s.rt.prev x) { s.rt with prev := x } =
        rtSyncEntry (rtWindow s.rt.prev x) (~~~s.rt.prev) { s.rt with prev := x } := by
      simpa [hlow, hcount, Nat.not_lt.mpr hcount] using hsearch
    rw [hentry, rtSyncEntry, syncPosition_rtWindow hi hdrop hearliest, extractLsb'_two_ofNat_three]

/-! ## First halves -/

/-- A synchronized decoder outside SOC is in RECV (R25). -/
theorem RtPhase.eq_recv_of_ne {p : RtPhase} (hsync : p ≠ .unsync) (hsoc : p ≠ .soc) : p = .recv := by
  cases p with
  | unsync => exact absurd rfl hsync
  | soc => exact absurd rfl hsoc
  | recv => rfl

/-- Settles O16: the three answers of a first half. -/
theorem rtFirstHalfCompletesResetsOrCounts : Obligations.RtFirstHalfCompletesResetsOrCounts := by
  unfold Obligations.RtFirstHalfCompletesResetsOrCounts
  intro s x hsync hhalf
  have hfeed := rtFeed_firstHalf (n := s.params.maxFrameBytes) (x := x) (c := s.ctl) hsync hhalf
  rw [droppedAt_rtWindow] at hfeed
  have hanswer := rtFirstHalf_cases (rtHalfDropped s.rt x) { s.rt with prev := x, half := true } s.ctl
  refine ⟨fun hcount => ?_, fun hdrop hslot hphase => ?_, fun hdrop herror => ?_⟩
  · refine exec_rtFeed_of_continue (hfeed.trans ?_)
    rcases hcount with hnone | ⟨hphase, hslot⟩
    · simpa [hnone] using hanswer
    · simpa [hphase, hslot] using hanswer
  · rw [exec_rtFeed_of_complete (hfeed.trans (by simpa [hdrop, hslot, hphase] using hanswer)), latchRt_frame]
    rfl
  · refine exec_rtFeed_of_continue (hfeed.trans ?_)
    rw [← goUnsync_eq_rtSilentReset none x true]
    by_cases hslot : s.rt.slot = 1#9
    · simpa [hdrop, hslot, herror.1 hslot] using hanswer
    · have hphase : s.rt.phase = .recv := RtPhase.eq_recv_of_ne hsync fun h => hslot (herror.2 h)
      simpa [hdrop, hslot, hphase] using hanswer

/-! ## Second halves -/

/-- A second half that measures a second drop of its group is a framing error (R109). -/
theorem rtFeed_of_secondDrop {n : Nat} {x : Nib} {r : RtState} {c : Ctl} (hsync : r.phase ≠ .unsync)
    (hhalf : r.half = true) (hdrop : rtHalfDropped r x = true) (hsecond : r.drop ≠ 0#9) :
    rtFeed n x r c = continueWith (rtSilentReset x r) c := by
  rw [rtFeed_secondHalf hsync hhalf, droppedAt_rtWindow, hdrop, ← goUnsync_eq_rtSilentReset none x false]
  simpa [hsecond] using rtSecondHalf_cases n true { r with prev := x, half := false } c

/-- The decoder after a second half without a second drop, before the group's end is examined (R109). -/
def RtState.countSlot (x : Nib) (r : RtState) : RtState :=
  slotCounted (rtHalfDropped r x) { r with prev := x, half := false }

/-- A second half without a second drop counts its slot and examines the group's end (R109, R110). -/
theorem rtFeed_eq_rtGroupEnd {n : Nat} {x : Nib} {r : RtState} {c : Ctl} (hsync : r.phase ≠ .unsync)
    (hhalf : r.half = true) (hone : rtHalfDropped r x = true → r.drop = 0#9) :
    rtFeed n x r c = rtGroupEnd n (r.countSlot x) c := by
  rw [rtFeed_secondHalf hsync hhalf]
  have hanswer := rtSecondHalf_cases n (rtHalfDropped r x) { r with prev := x, half := false } c
  exact (hanswer.resolve_left fun ⟨hdrop, hsecond, _⟩ => hsecond (hone hdrop)).2

/-- The slots a mode's groups have, as the statements write it (R26). -/
theorem RtMode.slots_eq_ite (m : RtMode) : m.slots = if m = .oneOfFour then 4 else 256 := by
  cases m <;> rfl

/-- Settles O17: a second drop ends the frame; before the group's end the slot is counted and nothing else
happens. -/
theorem rtSecondHalfCountsTheSlotAndRecordsTheDrop : Obligations.RtSecondHalfCountsTheSlotAndRecordsTheDrop := by
  unfold Obligations.RtSecondHalfCountsTheSlotAndRecordsTheDrop
  intro s x hsync hhalf
  refine ⟨fun hdrop hsecond => exec_rtFeed_of_continue (rtFeed_of_secondDrop hsync hhalf hdrop hsecond),
    fun hone hshort => ?_⟩
  have hcount : (s.rt.countSlot x).slot.toNat < (s.rt.countSlot x).mode.slots := by
    show (s.rt.slot + 1#9).toNat < s.rt.mode.slots
    rw [RtMode.slots_eq_ite, BitVec.toNat_add]
    exact (Nat.mod_le ..).trans_lt hshort
  have hend := rtGroupEnd_cases s.params.maxFrameBytes (s.rt.countSlot x) s.ctl
  refine exec_rtFeed_of_continue (r := s.rt.countSlot x) ((rtFeed_eq_rtGroupEnd hsync hhalf hone).trans ?_)
  simpa [hcount, Nat.not_le.mpr hcount] using hend

/-! ## The end of a group -/

/-- The drop of the group a second half ends: the one it measures, in the slot it counts, or the one recorded
before (R109). -/
def RtState.groupDrop (x : Nib) (r : RtState) : BitVec 9 :=
  if rtHalfDropped r x then r.slot + 1#9 else r.drop

/-- The drop of a group as a number, where the second half counts slot `k`. -/
theorem RtState.toNat_groupDrop {x : Nib} {r : RtState} {k : Nat} (hslot : (r.slot + 1#9).toNat = k) :
    (r.groupDrop x).toNat = if rtHalfDropped r x then k else r.drop.toNat := by
  rw [RtState.groupDrop, apply_ite BitVec.toNat, hslot]

/-- The decoder after the second half of a group's last slot, before the group is evaluated (R109, R110). -/
abbrev RtState.closeGroup (x : Nib) (r : RtState) : RtState :=
  { r with prev := x, half := false, slot := 0#9, drop := r.groupDrop x }

/-- A framing error at the end of a group leaves what it leaves anywhere in a feed (R116). -/
@[simp] theorem RtState.goUnsync_closeGroup (e : Option FramingError) (x : Nib) (r : RtState) :
    (r.closeGroup x).goUnsync e = rtSilentReset x r := rfl

/-- Which operation evaluates a group, by phase and mode, once its last slot is counted (R110). -/
theorem rtFeed_lastSlot_cases {x : Nib} {r : RtState} (n : Nat) (c : Ctl) (hsync : r.phase ≠ .unsync)
    (hhalf : r.half = true) (hone : rtHalfDropped r x = true → r.drop = 0#9)
    (hlast : r.mode.slots ≤ (r.slot + 1#9).toNat) :
    (r.phase ≠ .recv ∧ rtFeed n x r c = rtSofGroupEnd (r.closeGroup x) c)
      ∨ (r.phase = .recv ∧ r.mode = .oneOfFour ∧ rtFeed n x r c = rtPairGroupEnd n (r.closeGroup x) c)
      ∨ (r.phase = .recv ∧ r.mode = .oneOfTwoFiveSix
          ∧ rtFeed n x r c = rtByteGroupEnd n (r.closeGroup x) c) := by
  rw [rtFeed_eq_rtGroupEnd hsync hhalf hone]
  rcases rtGroupEnd_cases n (r.countSlot x) c with ⟨hshort, -⟩ | ⟨-, h⟩ | ⟨-, h⟩ | ⟨-, h⟩
  · exact absurd hlast (Nat.not_le.mpr hshort)
  · exact .inl h
  · exact .inr (.inl h)
  · exact .inr (.inr h)

/-- Settles O18: the three answers at the end of the SOF group. -/
theorem rtSofGroupSelectsTheMode : Obligations.RtSofGroupSelectsTheMode := by
  unfold Obligations.RtSofGroupSelectsTheMode
  intro s x hphase hmode hhalf hslot hone d
  have hdrop : s.rt.groupDrop x = d := by rw [RtState.groupDrop, hslot]; rfl
  have hfeed : rtFeed s.params.maxFrameBytes x s.rt s.ctl = rtSofGroupEnd (s.rt.closeGroup x) s.ctl := by
    have hcases := rtFeed_lastSlot_cases s.params.maxFrameBytes s.ctl (by simp [hphase]) hhalf hone
      (by simp [hmode, hslot, RtMode.slots])
    simpa [hphase] using hcases
  have hend := rtSofGroupEnd_cases (s.rt.closeGroup x) s.ctl
  refine ⟨fun h4 => ?_, fun h3 => ?_, fun h4 h3 => ?_⟩ <;> refine exec_rtFeed_of_continue (hfeed.trans ?_)
  · simpa [hdrop, h4] using hend
  · simpa [hdrop, h3] using hend
  · simpa [hdrop, h4, h3] using hend

/-- The value a drop stands for is its slot counted from 0 (R112, R113). -/
theorem slotValue_eq {drop : BitVec 9} (hdrop : drop ≠ 0#9) :
    (drop - 1#9).setWidth 8 = BitVec.ofNat 8 (drop.toNat - 1) := by
  have hpos : drop.toNat ≠ 0 := fun h => hdrop (BitVec.eq_of_toNat_eq h)
  bv_omega

/-- The two bits of a drop in slot 1 to 4 enter the shift register at bits 7 and 6, which the shift by two has
left clear (R112). -/
theorem pairShifted_eq {r : RtState} (hdrop : r.drop ≠ 0#9) (hle : r.drop.toNat ≤ 4) :
    pairShifted r = BitVec.ofNat 8 (r.sr.toNat / 4 + 64 * (r.drop.toNat - 1)) := by
  have hsr := r.sr.isLt
  have hlow : (r.sr >>> 2).toNat = r.sr.toNat / 4 := by
    rw [BitVec.toNat_ushiftRight, Nat.shiftRight_eq_div_pow]
  have hhigh : (BitVec.ofNat 8 (r.drop.toNat - 1) <<< 6).toNat = (r.drop.toNat - 1) <<< 6 := by
    rw [BitVec.toNat_shiftLeft, BitVec.toNat_ofNat, Nat.shiftLeft_eq, Nat.shiftLeft_eq]
    omega
  apply BitVec.eq_of_toNat_eq
  rw [pairShifted, slotValue_eq hdrop, BitVec.toNat_or, hlow, hhigh, Nat.lor_comm,
    ← Nat.shiftLeft_add_eq_or_of_lt (by omega), Nat.shiftLeft_eq, BitVec.toNat_ofNat]
  omega

/-- Settles O19: the four answers at the end of a OneOfFour data group. -/
theorem rtPairGroupShiftsInTwoBits : Obligations.RtPairGroupShiftsInTwoBits := by
  unfold Obligations.RtPairGroupShiftsInTwoBits
  intro s x hphase hmode hhalf hslot hone hle d sr
  have hd : (s.rt.groupDrop x).toNat = d := RtState.toNat_groupDrop (by rw [hslot]; rfl)
  have hd0 : s.rt.groupDrop x = 0#9 ↔ d = 0 := by rw [← hd]; exact BitVec.toNat_inj.symm
  have hd4 : d ≤ 4 := by unfold d; split <;> omega
  have hsr (h : d ≠ 0) : pairShifted (s.rt.closeGroup x) = sr := by
    rw [pairShifted_eq (mt hd0.1 h) (hd.trans_le hd4), hd]
  have hfeed : rtFeed s.params.maxFrameBytes x s.rt s.ctl =
      rtPairGroupEnd s.params.maxFrameBytes (s.rt.closeGroup x) s.ctl := by
    have hcases := rtFeed_lastSlot_cases s.params.maxFrameBytes s.ctl (by simp [hphase]) hhalf hone
      (by simp [hmode, hslot, RtMode.slots])
    simpa [hphase, hmode] using hcases
  have hend := rtPairGroupEnd_cases s.params.maxFrameBytes (s.rt.closeGroup x) s.ctl
  refine ⟨fun h => ?_, fun h hbits => ?_, fun h hbits hbuf => ?_, fun h hbits hbuf => ?_⟩ <;>
    refine exec_rtFeed_of_continue (hfeed.trans ?_)
  · simpa [hd0, h] using hend
  · simpa [hd0, h, hbits.ne, hsr h, BitVec.ofNat_add] using hend
  · simpa [hd0, h, hbits, hbuf, hsr h] using hend
  · simpa [hd0, h, hbits, hbuf] using hend

/-- Settles O20: the three answers at the end of a OneOfTwoFiveSix data group. -/
theorem rtByteGroupAppendsTheSlotIndex : Obligations.RtByteGroupAppendsTheSlotIndex := by
  unfold Obligations.RtByteGroupAppendsTheSlotIndex
  intro s x hphase hmode hhalf hslot hone _ d
  have hd : (s.rt.groupDrop x).toNat = d := RtState.toNat_groupDrop (by rw [hslot]; rfl)
  have hd0 : s.rt.groupDrop x = 0#9 ↔ d = 0 := by rw [← hd]; exact BitVec.toNat_inj.symm
  have hbyte (h : d ≠ 0) : (s.rt.groupDrop x - 1#9).setWidth 8 = BitVec.ofNat 8 (d - 1) := by
    rw [slotValue_eq (mt hd0.1 h), hd]
  have hfeed : rtFeed s.params.maxFrameBytes x s.rt s.ctl =
      rtByteGroupEnd s.params.maxFrameBytes (s.rt.closeGroup x) s.ctl := by
    have hcases := rtFeed_lastSlot_cases s.params.maxFrameBytes s.ctl (by simp [hphase]) hhalf hone
      (by simp [hmode, hslot, RtMode.slots])
    simpa [hphase, hmode] using hcases
  have hend := rtByteGroupEnd_cases s.params.maxFrameBytes (s.rt.closeGroup x) s.ctl
  refine ⟨fun h => ?_, fun h hbuf => ?_, fun h hbuf => ?_⟩ <;>
    refine exec_rtFeed_of_continue (hfeed.trans ?_)
  · simpa [hd0, h] using hend
  · simpa [hd0, h, hbuf, hbyte h] using hend
  · simpa [hd0, h, hbuf] using hend

end Sys2Proof.Machine
end

section
/-!
PROOFS. The Tag→Reader Manchester decoder, command by command (41_manchester_decoder.md). A TR_FEED past the warm-up
is brought by the kind of its feed (R175) to the search (R152), to the record of a first half (R156), or to the step
the symbol of a finished bit period takes in the decoder's phase (R157 to R165). What those operations answer is
said by the laws of Sys2Proof/Laws/ManchesterDecoder.lean and, for the phase step, by the lemmas about it below.
-/

namespace Sys2Proof.Machine

/-! ## The two commands without an operand -/

/-- Bit 6 of the STATUS byte is TR_SYNC (R46). -/
theorem statusByte_getLsbD_six (r : RtState) (t : TrState) (c : Ctl) :
    (statusByte r t c).getLsbD 6 = trSync t :=
  Option.some.inj (congrArg (·[6]?) (statusByte_bits r t c))

/-- Settles O14: the command byte is the encoding of TR_RESET, whose arm is `TR_GoUnsync` alone; TR_SYNC reads
the phase, which that procedure sets to UNSYNC. -/
theorem trResetIsTheSilentResetAlone : Obligations.TrResetIsTheSilentResetAlone := by
  unfold Obligations.TrResetIsTheSilentResetAlone
  refine ⟨fun p => Laws.RoundTrip.trReset p rfl, fun s => ⟨exec_trReset s, ?_⟩⟩
  rw [statusByte_getLsbD_six]
  rfl

/-- Settles O35: the command byte is the encoding of TR_READ, whose arm hands back the latch as it stood and
then clears the two bits. -/
theorem trReadReturnsTheLatchAndClearsItsFlags : Obligations.TrReadReturnsTheLatchAndClearsItsFlags := by
  unfold Obligations.TrReadReturnsTheLatchAndClearsItsFlags
  exact ⟨fun p => Laws.RoundTrip.trRead p rfl, exec_trRead⟩

/-! ## What a TR_FEED answers -/

/-- A TR_FEED whose procedure returns CONTINUE replaces the decoder and hands back that result. -/
theorem exec_trFeed_of_continue {x : Nib} {s : State} {t : TrState}
    (h : trFeed s.params.maxFrameBytes x s.tr s.ctl = continueWith t s.ctl) :
    exec (.trFeed x) s = .next { s with tr := t, results := .feed false :: s.results } := by
  rw [exec_trFeed, h]
  rfl

/-- A completion writes the control unit as the statements say (R166). -/
theorem latchTr_eq_trLatched (bytes : List Byte) (tb : BitVec 3) (c : Ctl) :
    c.latchTr { bytes := bytes, tb := tb, par := parity bytes, sph := 0#2 } = trLatched bytes tb c := by
  simp [Ctl.latchTr, trLatched, Bool.or_comm]

/-- A TR_FEED that completes a frame resets the decoder silently and hands over that frame (R166). -/
theorem exec_trFeed_of_complete {x : Nib} {s : State} {t : TrState} {bytes : List Byte} {tb : BitVec 3}
    (h : trFeed s.params.maxFrameBytes x s.tr s.ctl = trComplete bytes tb t s.ctl) :
    exec (.trFeed x) s = .next { s with
      tr := t.goUnsync none, ctl := trLatched bytes tb s.ctl, results := .feed true :: s.results } := by
  rw [exec_trFeed, h, ← latchTr_eq_trLatched]
  rfl

/-- A decoder whose warm-up count stands at 3 is past the warm-up (R151). -/
theorem TrState.not_warm_lt {t : TrState} (hwarm : t.warm = 3#2) : ¬ t.warm.toNat < 3 := by
  simp [hwarm]

/-- The measurement of the statements is the decoder's: in the two oldest samples side by side, the sub-sample
later than bit 0 of the first is bit 3 of the second (R155). -/
theorem modulated_eq_trHalfModulated (t : TrState) : modulated t.w0 t.w1 t.j = trHalfModulated t := by
  simp only [modulated, trHalfModulated, BitVec.getLsbD_append]
  rcases Nat.eq_zero_or_pos t.j.toNat with hj | hj
  · simp [hj]
  · have hlater : ¬ t.j.toNat + 3 < 4 := by omega
    have hindex : t.j.toNat + 3 - 4 = t.j.toNat - 1 := by omega
    simp [Nat.succ_le_of_lt hj, hlater, hindex]

/-! ## The search -/

/-- The search changes nothing where no sub-sample is held in both samples (R152). -/
theorem trSearch_of_noCandidate {w a b : Nib} {t : TrState}
    (hnone : ∀ k, k < 4 → ¬ (w.getLsbD k = true ∧ a.getLsbD k = true)) : trSearch w a b t = t := by
  have hzero : w &&& a = 0#4 := by
    apply BitVec.eq_of_getLsbD_eq
    intro k hk
    simpa using hnone k hk
  simp [trSearch, hzero]

/-- The highest sub-sample held in both samples is the one candidate: the third sample confirms it, or the
search changes nothing (R152 to R154). -/
theorem trSearch_of_candidate {w a b : Nib} {t : TrState} {k : Nat} (hk : k < 4) (hw : w.getLsbD k = true)
    (ha : a.getLsbD k = true)
    (hmax : ∀ m, k < m → m < 4 → ¬ (w.getLsbD m = true ∧ a.getLsbD m = true)) :
    trSearch w a b t = if b.getLsbD k then trSyncEntry k t else t := by
  have hset : (w &&& a).getLsbD k = true := by rw [BitVec.getLsbD_and, hw, ha]; rfl
  have hhighest : highestSet (w &&& a) = k :=
    highestSet_eq _ k hk hset fun m hkm hm => by simpa using hmax m hkm hm
  have hne : w &&& a ≠ 0#4 := fun h => by simp [h] at hset
  simp only [trSearch, if_neg hne, hhighest]

/-- A TR_FEED while UNSYNC does what the search does, and hands nothing over (R152). -/
theorem exec_trFeed_of_search {x : Nib} {s : State} {t : TrState} (hwarm : s.tr.warm = 3#2)
    (hphase : s.tr.phase = .unsync)
    (h : trSearch s.tr.w0 s.tr.w1 s.tr.w2 (trShifted x s.tr) = t) :
    exec (.trFeed x) s = .next { s with tr := t, results := .feed false :: s.results } :=
  exec_trFeed_of_continue (h ▸ trFeed_unsync (TrState.not_warm_lt hwarm) hphase)

/-- Settles O26: without a candidate, with one the third sample lacks, and with one it confirms. -/
theorem trSearchConfirmsTheHighestHeldSubSample : Obligations.TrSearchConfirmsTheHighestHeldSubSample := by
  unfold Obligations.TrSearchConfirmsTheHighestHeldSubSample
  intro s x hwarm hphase
  refine ⟨fun hnone => exec_trFeed_of_search hwarm hphase (trSearch_of_noCandidate hnone),
    fun k hk hw ha hmax => ⟨fun hb => ?_, fun hb => ?_⟩⟩ <;>
    refine exec_trFeed_of_search hwarm hphase ((trSearch_of_candidate hk hw ha hmax).trans ?_)
  · simp [hb]
  · simp [hb, trSyncEntry]

/-! ## First halves -/

/-- A first half records its measurement, and hands nothing over (R156). -/
theorem trFeed_recordsFirstHalf {n : Nat} {x : Nib} {t : TrState} {c : Ctl} (hwarm : t.warm = 3#2)
    (hsync : t.phase ≠ .unsync) (hhalf : t.half = false) :
    trFeed n x t c = continueWith (trFirstHalf (trHalfModulated t) (trShifted x t)) c := by
  rw [trFeed_firstHalf (TrState.not_warm_lt hwarm) hsync hhalf, modulated_eq_trHalfModulated]
  rfl

/-- Settles O27: the record of a first half, with the measurement of the statements. -/
theorem trFirstHalfRecordsModulation : Obligations.TrFirstHalfRecordsModulation := by
  unfold Obligations.TrFirstHalfRecordsModulation
  intro s x hwarm hsync hhalf
  exact exec_trFeed_of_continue (trFeed_recordsFirstHalf hwarm hsync hhalf)

/-! ## The symbol of a bit period -/

/-- The decoder after the window shift of a feed that ends a bit period with the symbol `y`, before the symbol
is acted on (R151, R157). -/
abbrev TrState.atSymbol (x : Nib) (y : TrSub) (t : TrState) : TrState :=
  { trShifted x t with half := false, sub := y }

/-- A silent reset at the end of a bit period is the one of the statements (R168). -/
@[simp] theorem TrState.goUnsync_atSymbol (e : Option FramingError) (x : Nib) (y : TrSub) (t : TrState) :
    (t.atSymbol x y).goUnsync e = trSilentReset x t := rfl

/-- The symbol of the statements is the decoder's (R157). -/
theorem combine_of_periodSymbol {u y : TrSub} {m : Bool} (h : PeriodSymbol u m y) : combine m u = y := by
  rcases h with ⟨rfl, rfl, rfl⟩ | ⟨rfl, rfl, rfl⟩ | ⟨rfl, rfl, rfl⟩ | ⟨rfl, rfl, rfl⟩ <;> rfl

/-- A second half acts on its symbol: NONE ends the frame or is an error, any other takes the phase step
(R157, R158). -/
theorem trFeed_secondHalf_of_symbol {n : Nat} {x : Nib} {y : TrSub} {t : TrState} {c : Ctl}
    (hwarm : t.warm = 3#2) (hsync : t.phase ≠ .unsync) (hhalf : t.half = true)
    (hsymbol : PeriodSymbol t.sub (trHalfModulated t) y) :
    trFeed n x t c =
      if y = .none then trNeither (t.atSymbol x y) c else trPhaseStep n (t.atSymbol x y) c := by
  rw [trFeed_secondHalf (TrState.not_warm_lt hwarm) hsync hhalf, modulated_eq_trHalfModulated, trSecondHalf,
    TrState.shiftWindow_sub, combine_of_periodSymbol hsymbol]
  rfl

/-- A bit period that leaves a symbol takes the phase step (R157). -/
theorem trFeed_eq_trPhaseStep {n : Nat} {x : Nib} {y : TrSub} {t : TrState} {c : Ctl} (hwarm : t.warm = 3#2)
    (hsync : t.phase ≠ .unsync) (hhalf : t.half = true) (hy : y ≠ .none)
    (hsymbol : PeriodSymbol t.sub (trHalfModulated t) y) :
    trFeed n x t c = trPhaseStep n (t.atSymbol x y) c :=
  (trFeed_secondHalf_of_symbol hwarm hsync hhalf hsymbol).trans (if_neg hy)

/-- Settles O28: the two answers to a bit period with neither half modulated. -/
theorem trNeitherHalfAcknowledgesOrResets : Obligations.TrNeitherHalfAcknowledgesOrResets := by
  unfold Obligations.TrNeitherHalfAcknowledgesOrResets
  intro s x hwarm hsync hhalf hsymbol
  have hfeed := (trFeed_secondHalf_of_symbol (n := s.params.maxFrameBytes) (x := x) (c := s.ctl)
    hwarm hsync hhalf hsymbol).trans (if_pos rfl)
  have hanswer := trNeither_cases (s.tr.atSymbol x .none) s.ctl
  refine ⟨fun hphase => ?_, fun hphase => ?_⟩
  · exact exec_trFeed_of_complete (hfeed.trans (hanswer.resolve_right fun h => h.1 hphase).2)
  · exact exec_trFeed_of_continue (hfeed.trans (hanswer.resolve_left fun h => hphase h.1).2)

/-! ## The start of a frame -/

/-- Everything SOF stage 1 can do (R159). -/
theorem trPhaseStep_soc1_cases {n : Nat} {t : TrState} {c : Ctl} (hphase : t.phase = .soc1) :
    (t.sub = .both ∧ trPhaseStep n t c = continueWith { t with phase := .soc2, half := true, sub := .none } c)
      ∨ (t.sub ≠ .both ∧ trPhaseStep n t c = continueWith { t with phase := .errw } c) := by
  by_cases h : t.sub = .both
  · exact .inl ⟨h, by simp [trPhaseStep, hphase, trStage1, h]⟩
  · exact .inr ⟨h, by simp [trPhaseStep, hphase, trStage1, h, continueWith]⟩

/-- Everything SOF stage 2 can do (R160). -/
theorem trPhaseStep_soc2_cases {n : Nat} {t : TrState} {c : Ctl} (hphase : t.phase = .soc2) :
    (t.sub = .second ∧ trPhaseStep n t c = continueWith { t with phase := .soc3 } c)
      ∨ (t.sub ≠ .second ∧ trPhaseStep n t c = continueWith { t with phase := .errw } c) := by
  by_cases h : t.sub = .second
  · exact .inl ⟨h, by simp [trPhaseStep, hphase, trStage2, h]⟩
  · exact .inr ⟨h, by simp [trPhaseStep, hphase, trStage2, h, continueWith]⟩

/-- Everything SOF stage 3 can do (R161). -/
theorem trPhaseStep_soc3_cases {n : Nat} {t : TrState} {c : Ctl} (hphase : t.phase = .soc3) :
    (t.sub = .second ∧ trPhaseStep n t c = continueWith { t with phase := .sofc } c)
      ∨ (t.sub ≠ .second ∧ trPhaseStep n t c = continueWith { t with phase := .errw } c) := by
  by_cases h : t.sub = .second
  · exact .inl ⟨h, by simp [trPhaseStep, hphase, trStage3, h]⟩
  · exact .inr ⟨h, by simp [trPhaseStep, hphase, trStage3, h, continueWith]⟩

/-- Settles O29: each stage with the symbol it wants, and the three with any other. -/
theorem trSofStagesAdvanceOrWait : Obligations.TrSofStagesAdvanceOrWait := by
  unfold Obligations.TrSofStagesAdvanceOrWait
  intro s x y hwarm hhalf hy hsymbol
  have hfeed (hsync : s.tr.phase ≠ .unsync) := trFeed_eq_trPhaseStep (n := s.params.maxFrameBytes) (x := x)
    (c := s.ctl) hwarm hsync hhalf hy hsymbol
  have hstage1 := trPhaseStep_soc1_cases (n := s.params.maxFrameBytes) (t := s.tr.atSymbol x y) (c := s.ctl)
  have hstage2 := trPhaseStep_soc2_cases (n := s.params.maxFrameBytes) (t := s.tr.atSymbol x y) (c := s.ctl)
  have hstage3 := trPhaseStep_soc3_cases (n := s.params.maxFrameBytes) (t := s.tr.atSymbol x y) (c := s.ctl)
  refine ⟨fun hphase hwant => ?_, fun hphase hwant => ?_, fun hphase hwant => ?_, fun hother => ?_⟩
  · refine exec_trFeed_of_continue ((hfeed (by simp [hphase])).trans ?_)
    exact ((hstage1 hphase).resolve_right fun h => h.1 hwant).2
  · refine exec_trFeed_of_continue ((hfeed (by simp [hphase])).trans ?_)
    exact ((hstage2 hphase).resolve_right fun h => h.1 hwant).2
  · refine exec_trFeed_of_continue ((hfeed (by simp [hphase])).trans ?_)
    exact ((hstage3 hphase).resolve_right fun h => h.1 hwant).2
  · rcases hother with ⟨hphase, hwant⟩ | ⟨hphase, hwant⟩ | ⟨hphase, hwant⟩ <;>
      refine exec_trFeed_of_continue ((hfeed (by simp [hphase])).trans ?_)
    · exact ((hstage1 hphase).resolve_left fun h => hwant h.1).2
    · exact ((hstage2 hphase).resolve_left fun h => hwant h.1).2
    · exact ((hstage3 hphase).resolve_left fun h => hwant h.1).2

/-! ## Data symbols -/

/-- After the SOF and between data symbols the phase step is the data period's (R162, R163). -/
theorem trPhaseStep_data {n : Nat} {t : TrState} {c : Ctl} (hphase : t.phase = .sofc ∨ t.phase = .data) :
    trPhaseStep n t c = trDataPeriod n t c := by
  rcases hphase with h | h <;> simp only [trPhaseStep, h]

/-- A both-halves period starts the EOF and is no data bit (R163). -/
theorem trDataPeriod_both {n : Nat} {t : TrState} {c : Ctl} (h : t.sub = .both) :
    trDataPeriod n t c = continueWith { t with phase := .eoff } c := by
  simp only [trDataPeriod, h]

/-- A period with one half modulated is a data symbol, 1 where that is the second half (R162). -/
theorem trDataPeriod_oneHalf {n : Nat} {t : TrState} {c : Ctl} (h : t.sub = .first ∨ t.sub = .second) :
    trDataPeriod n t c = trSymbol n (t.sub = .second) t c := by
  rcases h with h | h <;> simp [trDataPeriod, h]

/-- A symbol enters the shift register at bit 7, which the shift by one has left clear (R41, R162). -/
theorem trShiftIn_eq (v : Bool) (t : TrState) :
    trShiftIn v t = { t with
      sr := BitVec.ofNat 8 (t.sr.toNat / 2 + if v then 128 else 0), bc := t.bc + 1#4, phase := .data } := by
  have hsr := t.sr.isLt
  have hlow : (t.sr >>> 1).toNat = t.sr.toNat / 2 := by
    rw [BitVec.toNat_ushiftRight, Nat.shiftRight_eq_div_pow]
  have hhigh : ((BitVec.ofBool v).setWidth 8 <<< 7).toNat = v.toNat <<< 7 := by cases v <;> rfl
  have hvalue : (t.sr >>> 1) ||| ((BitVec.ofBool v).setWidth 8 <<< 7) =
      BitVec.ofNat 8 (t.sr.toNat / 2 + if v then 128 else 0) := by
    apply BitVec.eq_of_toNat_eq
    rw [BitVec.toNat_or, hlow, hhigh, Nat.lor_comm, ← Nat.shiftLeft_add_eq_or_of_lt (by omega),
      BitVec.toNat_ofNat]
    cases v <;> simp <;> omega
  rw [trShiftIn, hvalue]

/-- Without a full byte waiting, a symbol is shifted in and nothing else happens (R162). -/
theorem trSymbol_of_notFull {n : Nat} {v : Bool} {t : TrState} {c : Ctl} (hbc : t.bc ≠ 8#4) :
    trSymbol n v t c = continueWith (trShiftIn v t) c := by
  simpa [hbc] using trSymbol_cases n v t c

/-- A full byte that is waiting enters the buffer before the symbol is shifted in (R162). -/
theorem trSymbol_of_flush {n : Nat} {v : Bool} {t : TrState} {c : Ctl} (hbc : t.bc = 8#4)
    (hbuf : t.buf.length ≠ n) :
    trSymbol n v t c =
      continueWith (trShiftIn v { t with buf := t.buf ++ [t.sr], sr := 0#8, bc := 0#4 }) c := by
  simpa [hbc, hbuf] using trSymbol_cases n v t c

/-- A full byte that is waiting before a full buffer overflows it (R162, R167). -/
theorem trSymbol_of_overflow {n : Nat} {v : Bool} {t : TrState} {c : Ctl} (hbc : t.bc = 8#4)
    (hbuf : t.buf.length = n) : trSymbol n v t c = continueWith (t.goUnsync none) c := by
  simpa [hbc, hbuf] using trSymbol_cases n v t c

/-- Settles O30: the start of the EOF, and the three answers to a data symbol. -/
theorem trDataSymbolIsShiftedInAfterTheFlush : Obligations.TrDataSymbolIsShiftedInAfterTheFlush := by
  unfold Obligations.TrDataSymbolIsShiftedInAfterTheFlush
  intro s x y hwarm hhalf hphase hsymbol top
  have hsync : s.tr.phase ≠ .unsync := by rcases hphase with h | h <;> simp [h]
  have hfeed (hy : y ≠ .none) :
      trFeed s.params.maxFrameBytes x s.tr s.ctl =
        trDataPeriod s.params.maxFrameBytes (s.tr.atSymbol x y) s.ctl :=
    (trFeed_eq_trPhaseStep hwarm hsync hhalf hy hsymbol).trans (trPhaseStep_data hphase)
  have hdata (hy : y = .first ∨ y = .second) :
      trFeed s.params.maxFrameBytes x s.tr s.ctl =
        trSymbol s.params.maxFrameBytes (y = .second) (s.tr.atSymbol x y) s.ctl :=
    (hfeed (by rcases hy with rfl | rfl <;> simp)).trans (trDataPeriod_oneHalf hy)
  refine ⟨fun hy => ?_, fun hy hbc => ?_, fun hy hbc hbuf => ?_, fun hy hbc hbuf => ?_⟩
  · subst hy
    exact exec_trFeed_of_continue ((hfeed (by simp)).trans (trDataPeriod_both rfl))
  · have hnotFull : s.tr.bc ≠ 8#4 := fun h => by simp [h] at hbc
    refine exec_trFeed_of_continue ((hdata hy).trans ?_)
    rw [trSymbol_of_notFull (t := s.tr.atSymbol x y) hnotFull]
    simp [trShiftIn_eq, trShifted, top]
  · refine exec_trFeed_of_continue ((hdata hy).trans ?_)
    rw [trSymbol_of_flush (t := s.tr.atSymbol x y) hbc hbuf]
    simp [trShiftIn_eq, trShifted, top]
  · exact exec_trFeed_of_continue ((hdata hy).trans (trSymbol_of_overflow hbc hbuf))

/-! ## The wait after an error -/

/-- The second half of the bit period waited out is a silent reset, whatever symbol it leaves (R158, R165). -/
theorem trSecondHalf_errw {n : Nat} {m : Bool} {t : TrState} {c : Ctl} (hphase : t.phase = .errw) :
    trSecondHalf n m t c = continueWith ((halfCombined m t).goUnsync none) c := by
  have herrw : (halfCombined m t).phase = .errw := hphase
  rcases trSecondHalf_cases n m t c with ⟨-, h⟩ | ⟨-, h⟩ <;> rw [h]
  · exact ((trNeither_cases (halfCombined m t) c).resolve_left fun h => by simp [herrw] at h).2
  · simp only [trPhaseStep, herrw]

/-- So a feed that ends this bit period leaves the state of a silent reset (R165). -/
theorem trFeed_secondHalf_errw {n : Nat} {x : Nib} {t : TrState} {c : Ctl} (hwarm : t.warm = 3#2)
    (hphase : t.phase = .errw) (hhalf : t.half = true) :
    trFeed n x t c = continueWith (trSilentReset x t) c := by
  rw [trFeed_secondHalf (TrState.not_warm_lt hwarm) (by simp [hphase]) hhalf,
    trSecondHalf_errw (t := t.shiftWindow x) hphase]
  rfl

/-- Settles O32: the first of the two feeds records its half, the second is the silent reset. -/
theorem trErrorWaitLastsOneBitPeriod : Obligations.TrErrorWaitLastsOneBitPeriod := by
  unfold Obligations.TrErrorWaitLastsOneBitPeriod
  intro s x y hwarm hphase hhalf
  have hfirst := trFeed_recordsFirstHalf (n := s.params.maxFrameBytes) (x := x) (c := s.ctl) hwarm
    (by simp [hphase]) hhalf
  exact ⟨_, _, exec_trFeed_of_continue hfirst, hphase, rfl, rfl, rfl,
    exec_trFeed_of_continue (trFeed_secondHalf_errw hwarm hphase rfl), rfl, rfl, rfl⟩

/-! ## The window and the warm-up -/

/-- What only the start of a TR_FEED writes: the three samples of the window, and the warm-up count (R151). -/
def TrState.sampled (t : TrState) : (Nib × Nib × Nib) × BitVec 2 := ((t.w0, t.w1, t.w2), t.warm)

/-- The silent reset keeps the window and the count (R168). -/
@[simp] theorem TrState.goUnsync_sampled (e : Option FramingError) (t : TrState) :
    (t.goUnsync e).sampled = t.sampled := rfl

/-- The search keeps the window and the count. -/
theorem trSearch_sampled (w a b : Nib) (t : TrState) : (trSearch w a b t).sampled = t.sampled := by
  rcases trSearch_cases w a b t with h | ⟨-, -, h⟩ <;> rw [h]
  rfl

/-- A data symbol keeps the window and the count. -/
theorem trSymbol_sampled (n : Nat) (v : Bool) (t : TrState) (c : Ctl) :
    (trSymbol n v t c).unit.sampled = t.sampled := by
  rcases trSymbol_cases n v t c with ⟨-, -, h⟩ | ⟨-, -, h⟩ | ⟨-, h⟩ <;> rw [h] <;> rfl

/-- A data period keeps the window and the count. -/
theorem trDataPeriod_sampled (n : Nat) (t : TrState) (c : Ctl) :
    (trDataPeriod n t c).unit.sampled = t.sampled := by
  unfold trDataPeriod
  split
  · exact trSymbol_sampled ..
  · exact trSymbol_sampled ..
  · rfl
  · rfl

/-- The end of a frame keeps the window and the count. -/
theorem trEndOfFrame_sampled (n : Nat) (t : TrState) (c : Ctl) :
    (trEndOfFrame n t c).unit.sampled = t.sampled := by
  rcases trEndOfFrame_cases n t c with ⟨-, -, h⟩ | ⟨-, -, h⟩ | ⟨-, -, h⟩ | ⟨-, -, h⟩ <;> rw [h] <;> rfl

/-- The phase step keeps the window and the count, in every phase. -/
theorem trPhaseStep_sampled (n : Nat) (t : TrState) (c : Ctl) :
    (trPhaseStep n t c).unit.sampled = t.sampled := by
  cases hphase : t.phase with
  | unsync => simp only [trPhaseStep, hphase, continueWith_unit]
  | soc1 => rcases trPhaseStep_soc1_cases (n := n) (c := c) hphase with ⟨-, h⟩ | ⟨-, h⟩ <;> rw [h] <;> rfl
  | soc2 => rcases trPhaseStep_soc2_cases (n := n) (c := c) hphase with ⟨-, h⟩ | ⟨-, h⟩ <;> rw [h] <;> rfl
  | soc3 => rcases trPhaseStep_soc3_cases (n := n) (c := c) hphase with ⟨-, h⟩ | ⟨-, h⟩ <;> rw [h] <;> rfl
  | sofc => rw [trPhaseStep_data (.inl hphase), trDataPeriod_sampled]
  | data => rw [trPhaseStep_data (.inr hphase), trDataPeriod_sampled]
  | eoff => simp only [trPhaseStep, hphase, trEndOfFrame_sampled]
  | errw => simp only [trPhaseStep, hphase, continueWith_unit, TrState.goUnsync_sampled]

/-- A second half keeps the window and the count. -/
theorem trSecondHalf_sampled (n : Nat) (m : Bool) (t : TrState) (c : Ctl) :
    (trSecondHalf n m t c).unit.sampled = t.sampled := by
  rcases trSecondHalf_cases n m t c with ⟨-, h⟩ | ⟨-, h⟩ <;> rw [h]
  · rcases trNeither_cases (halfCombined m t) c with ⟨-, h⟩ | ⟨-, h⟩ <;> rw [h] <;> rfl
  · exact trPhaseStep_sampled ..

/-- Every feed shifts the window, and counts itself during the warm-up alone (R151). -/
theorem trFeed_sampled (n : Nat) (x : Nib) (t : TrState) (c : Ctl) :
    (trFeed n x t c).unit.sampled =
      ((t.w1, t.w2, x), if t.warm.toNat < 3 then t.warm + 1#2 else t.warm) := by
  rcases trFeed_cases n x t c with ⟨hw, h⟩ | ⟨hw, -, h⟩ | ⟨hw, -, -, h⟩ | ⟨hw, -, -, h⟩ <;> rw [h]
  · rw [if_pos hw]; rfl
  · rw [if_neg hw, continueWith_unit, trSearch_sampled]; rfl
  · rw [if_neg hw]; rfl
  · rw [if_neg hw, trSecondHalf_sampled]; rfl

/-- Of the commands that are no feed of the decoder, only BLK_RESET writes the warm-up count (R151). -/
theorem exec_keeps_warm {i : Instr} {s t : State} (hreset : i ≠ .blkReset) (hfeed : ∀ x, i ≠ .trFeed x)
    (h : exec i s = .next t) : t.tr.warm = s.tr.warm := by
  cases htouch : touchesTr i with
  | false => rw [(exec_keeps_untouched h).2 htouch]
  | true =>
    cases i with
    | trReset | trRead | statusRead =>
      obtain rfl := Host.Outcome.next.inj h
      rfl
    | blkReset => exact absurd rfl hreset
    | trFeed x => exact absurd rfl (hfeed x)
    | rtFeed | rtReset | rtRead | encRt | encTr | encTrSof | crcCompute | crcCheckL | crcCheckRt | crcCheckTr =>
      cases htouch

/-- Settles O25: the feed during the warm-up, the window and the count after any feed, and the other commands. -/
theorem trFeedShiftsTheWindowAndWarmsUp : Obligations.TrFeedShiftsTheWindowAndWarmsUp := by
  unfold Obligations.TrFeedShiftsTheWindowAndWarmsUp
  refine ⟨fun s x hwarm => exec_trFeed_of_continue (trFeed_warm hwarm), fun s x => ⟨_, exec_trFeed x s, ?_⟩,
    fun i s t => exec_keeps_warm, fun s => ⟨_, exec_blkReset s, rfl⟩⟩
  have hsampled := trFeed_sampled s.params.maxFrameBytes x s.tr s.ctl
  simp only [TrState.sampled, Prod.mk.injEq] at hsampled
  obtain ⟨⟨hw0, hw1, hw2⟩, hcount⟩ := hsampled
  exact ⟨hw0, hw1, hw2, fun hwarm => hcount.trans (by simp [hwarm])⟩

end Sys2Proof.Machine
end

section
/-!
PROOFS. The frame encoder (42_frame_encoder.md). The waveform of a byte, built in the model from the bit groups of
the byte, is shown to be the arithmetic of the statements on its value (R203, R206). That the preamble decodes as
the SOF-only acknowledgement (R212) follows the decoder sample by sample: `TrReads` says which decoder a list of
samples leaves when none of them hands over a frame.
-/

namespace Sys2Proof

/-- What a format-L command outside the CRC unit decodes to: refused without a list or with one too long (R83,
R262). -/
theorem decode_listCommand {cmd : Byte} {op : Opcode} (hop : opcodeOf cmd = some op)
    (hcrc : needsCrc op = false) (hformat : formatOf op = .list) (p : Params) (l : List Byte) :
    decode p { cmd := cmd, list := none } = .error .shape
      ∧ (l.length ≤ p.maxListBytes →
          decode p { cmd := cmd, list := some l } = .ok (assemble (argOf cmd) l op))
      ∧ (p.maxListBytes < l.length → decode p { cmd := cmd, list := some l } = .error .listTooLong) := by
  have hdecode (list : Option (List Byte)) := decode_of_opcode (p := p) (c := { cmd := cmd, list := list }) hop
  simp only [hcrc, hformat, Bool.false_and, Bool.false_eq_true, if_false] at hdecode
  refine ⟨hdecode none, fun hfits => ?_, fun hlong => ?_⟩
  · simp only [hdecode, if_pos hfits]
  · simp only [hdecode, if_neg (Nat.not_le.mpr hlong)]

namespace Machine

/-! ## The waveforms of a byte -/

/-- Group `g` of a byte is its value shifted down by two bits for each group below (R63). -/
theorem toNat_extractLsb'_two (b : Byte) (g : Nat) :
    (b.extractLsb' (2 * g) 2).toNat = b.toNat / 4 ^ g % 4 := by
  rw [BitVec.extractLsb'_toNat, Nat.shiftRight_eq_div_pow, Nat.pow_mul]

/-- The groups of a byte, by their numbers (R63). -/
theorem bitPairs_eq_map (b : Byte) : bitPairs b = (List.range 4).map fun g => b.extractLsb' (2 * g) 2 := rfl

/-- The slots of a group, by their numbers (R203). -/
theorem rtGroupWave_eq_flatMap (v : BitVec 2) : rtGroupWave v = (List.range 4).flatMap (rtSlotWave v) := by
  simp [rtGroupWave, List.range_succ]

/-- The waveform of an R→T byte: four groups of four slots, with the drop in the slot of the group's value
(R203). -/
theorem rtByteWave_eq (b : Byte) :
    rtByteWave b = (List.range 4).flatMap fun g => (List.range 4).flatMap fun k =>
      if k = b.toNat / 4 ^ g % 4 then [0xF#4, 0x0#4] else [0xF#4, 0xF#4] := by
  rw [rtByteWave, bitPairs_eq_map, List.flatMap_map]
  refine List.flatMap_congr fun g _ => ?_
  rw [rtGroupWave_eq_flatMap, ← toNat_extractLsb'_two]
  rfl

/-- The bits of a byte, by their places (R65). -/
theorem byteBits_eq_map (b : Byte) :
    byteBits b = (List.range 8).map fun i => decide (b.toNat / 2 ^ i % 2 = 1) := by
  have hbits : byteBits b = (List.range 8).map b.getLsbD := rfl
  rw [hbits]
  exact List.map_congr_left fun i _ => Nat.testBit_eq_decide_div_mod_eq

/-- The waveform of a T→R byte: eight Manchester pairs (R206). -/
theorem trByteWave_eq (b : Byte) :
    trByteWave b = (List.range 8).flatMap fun i =>
      if b.toNat / 2 ^ i % 2 = 1 then [0x0#4, 0xF#4] else [0xF#4, 0x0#4] := by
  rw [trByteWave, byteBits_eq_map, List.flatMap_map]
  exact List.flatMap_congr fun i _ => by simp [trBitWave, levelLow, levelHigh]

/-- Settles O38: the command byte names ENC_RT, and the frame is the waveforms of its bytes between the SOF and
the EOF. -/
theorem encRtReturnsTheSlotWaveform : Obligations.EncRtReturnsTheSlotWaveform := by
  unfold Obligations.EncRtReturnsTheSlotWaveform
  refine ⟨decode_listCommand (op := .encRt) (by decide) rfl rfl, fun s l hfits => ?_⟩
  rw [exec_encRt, State.whenListFits_of_le hfits, rtFrameWave, funext rtByteWave_eq]
  rfl

/-- Settles O39: the command byte names ENC_TR, and the frame is the waveforms of its bytes between the SOF and
the EOF. -/
theorem encTrReturnsTheManchesterWaveform : Obligations.EncTrReturnsTheManchesterWaveform := by
  unfold Obligations.EncTrReturnsTheManchesterWaveform
  refine ⟨decode_listCommand (op := .encTr) (by decide) rfl rfl, fun s l hfits => ?_⟩
  rw [exec_encTr, State.whenListFits_of_le hfits, trFrameWave, funext trByteWave_eq]
  rfl

/-! ## Runs of the T→R decoder in which no sample hands over a frame -/

/-- The samples `w`, fed one after the other to the decoder `t`, all return CONTINUE and leave `u` (R175). -/
inductive TrReads (n : Nat) : List Nib → TrState → TrState → Prop
  | nil (t : TrState) : TrReads n [] t t
  | cons {x : Nib} {w : List Nib} {t u v : TrState} (feed : ∀ c, trFeed n x t c = continueWith u c)
      (rest : TrReads n w u v) : TrReads n (x :: w) t v

/-- One list of samples after the other. -/
theorem TrReads.append {n : Nat} {w z : List Nib} {t u v : TrState} (hw : TrReads n w t u)
    (hz : TrReads n z u v) : TrReads n (w ++ z) t v := by
  induction hw with
  | nil => exact hz
  | cons feed _ ih => exact .cons feed (ih hz)

/-- What such a run leaves of the machine: a new decoder, and one CONTINUE for each sample. -/
theorem TrReads.run {n : Nat} {w : List Nib} {t u : TrState} (h : TrReads n w t u) {s : State}
    (hn : s.params.maxFrameBytes = n) (ht : s.tr = t) :
    runInstrs (trFeeds w) s =
      .next { s with tr := u, results := List.replicate w.length (.feed false) ++ s.results } := by
  induction h generalizing s with
  | nil => subst ht; rfl
  | @cons x w t u v feed _ ih =>
    subst hn ht
    have hrest := ih (s := { s with tr := u, results := .feed false :: s.results }) rfl rfl
    refine (runInstrs_cons (exec_trFeed_of_continue (feed s.ctl))).trans (hrest.trans ?_)
    simp [List.replicate_succ']

/-- A run whose last sample completes a frame: the frame is handed over with that sample alone (R166). -/
theorem TrReads.run_complete {w : List Nib} {x : Nib} {s : State} {u v : TrState} {bytes : List Byte}
    {tb : BitVec 3} (h : TrReads s.params.maxFrameBytes w s.tr u)
    (hlast : ∀ c, trFeed s.params.maxFrameBytes x u c = trComplete bytes tb v c) :
    runInstrs (trFeeds (w ++ [x])) s = .next { s with
      tr := v.goUnsync none, ctl := trLatched bytes tb s.ctl
      results := continueThenComplete w.length s.results } := by
  obtain ⟨t, hw, hrest⟩ := runInstrs_append (trFeeds w) (trFeeds [x]) s
  obtain rfl := Host.Outcome.next.inj ((h.run rfl rfl).symm.trans hw)
  rw [trFeeds_append, hrest]
  exact runInstrs_cons (exec_trFeed_of_complete (hlast s.ctl))

/-! ## The preamble -/

/-- A half whose first sample is modulated throughout measures modulation at every position (R155). -/
theorem trHalfModulated_of_high {t : TrState} (hw : t.w0 = levelHigh) : trHalfModulated t = true := by
  rw [← modulated_eq_trHalfModulated, hw]
  have key : ∀ j : BitVec 2, levelHigh.getLsbD j.toNat = true := by decide
  simp [modulated, key]

/-- A half whose first sample is unmodulated measures none, unless the position is the sample's last
sub-sample (R155). -/
theorem trHalfModulated_of_low {t : TrState} (hw : t.w0 = levelLow) (hj : t.j ≠ 0#2) :
    trHalfModulated t = false := by
  have hpos : 1 ≤ t.j.toNat := Nat.pos_of_ne_zero fun h => hj (BitVec.eq_of_toNat_eq h)
  rw [← modulated_eq_trHalfModulated, hw]
  simp [modulated, hpos, levelLow]

/-- An UNSYNC decoder whose oldest sample is unmodulated finds no candidate: past the warm-up a feed only shifts
the window (R152). -/
theorem trFeed_unsync_of_low {n : Nat} {x : Nib} {t : TrState} {c : Ctl} (hwarm : t.warm = 3#2)
    (hphase : t.phase = .unsync) (hw : t.w0 = levelLow) :
    trFeed n x t c = continueWith (trShifted x t) c := by
  rw [trFeed_unsync (TrState.not_warm_lt hwarm) hphase, trSearch_of_noCandidate]
  · rfl
  · simp [hw, levelLow]

/-- The warm-up count after a feed (R36, R151). -/
def warmedUp (warm : BitVec 2) : BitVec 2 := if warm.toNat < 3 then warm + 1#2 else warm

/-- An unmodulated sample fed to an UNSYNC decoder with an unmodulated window counts for the warm-up and changes
nothing else (R151, R152). -/
theorem trFeed_unmodulated {n : Nat} {t : TrState} {c : Ctl} (hphase : t.phase = .unsync) (h0 : t.w0 = levelLow)
    (h1 : t.w1 = levelLow) (h2 : t.w2 = levelLow) :
    trFeed n levelLow t c = continueWith { t with warm := warmedUp t.warm } c := by
  have hwindow : t.shiftWindow levelLow = t := by
    cases t
    simp_all [TrState.shiftWindow]
  by_cases hwarm : t.warm.toNat < 3
  · rw [trFeed_warm hwarm, hwindow, warmedUp, if_pos hwarm]
  · rw [trFeed_unsync hwarm hphase, hwindow, trSearch_of_noCandidate (by simp [h0, levelLow]), warmedUp,
      if_neg hwarm]

/-- Three such samples end the warm-up, wherever its count stood. -/
theorem trReads_warmUp {n : Nat} {t : TrState} (hphase : t.phase = .unsync) (h0 : t.w0 = levelLow)
    (h1 : t.w1 = levelLow) (h2 : t.w2 = levelLow) :
    TrReads n [levelLow, levelLow, levelLow] t { t with warm := 3#2 } := by
  have hcount : ∀ warm, warmedUp (warmedUp (warmedUp warm)) = 3#2 := by decide
  rw [← hcount t.warm]
  exact .cons (fun _ => trFeed_unmodulated hphase h0 h1 h2) <|
    .cons (fun _ => trFeed_unmodulated hphase h0 h1 h2) <|
    .cons (fun _ => trFeed_unmodulated hphase h0 h1 h2) (.nil _)

/-- The decoder synchronized at the earliest sub-sample, with the given window and place in the frame and with
nothing assembled yet (R154). -/
def trSynced (w0 w1 w2 : Nib) (phase : TrPhase) (half : Bool) (sub : TrSub) : TrState :=
  { w0 := w0, w1 := w1, w2 := w2, warm := 3#2, phase := phase, j := 3#2, half := half, sub := sub
    sr := 0#8, bc := 0#4, buf := [] }

/-- Three modulated samples in the window of an UNSYNC decoder are the first half of the SOF's first bit period
(R152 to R154). -/
theorem trFeed_syncEntry {n : Nat} {x : Nib} {t : TrState} {c : Ctl} (hwarm : t.warm = 3#2)
    (hphase : t.phase = .unsync) (h0 : t.w0 = levelHigh) (h1 : t.w1 = levelHigh) (h2 : t.w2 = levelHigh) :
    trFeed n x t c = continueWith (trSynced levelHigh levelHigh x .soc1 true .first) c := by
  rw [trFeed_unsync (TrState.not_warm_lt hwarm) hphase, h0, h1, h2,
    trSearch_of_candidate (k := 3) (by omega) (by decide) (by decide) (by omega), if_pos (by decide)]
  simp [trSyncEntry, trSynced, h1, h2, hwarm]

/-- The three unmodulated and three modulated samples the preamble begins with, and the one after them,
synchronize an UNSYNC decoder with an unmodulated window (R151 to R154). -/
theorem trReads_sync {n : Nat} (x : Nib) {t : TrState} (hphase : t.phase = .unsync) (h0 : t.w0 = levelLow)
    (h1 : t.w1 = levelLow) (h2 : t.w2 = levelLow) :
    TrReads n [levelLow, levelLow, levelLow, levelHigh, levelHigh, levelHigh, x] t
      (trSynced levelHigh levelHigh x .soc1 true .first) :=
  (trReads_warmUp hphase h0 h1 h2).append <|
    .cons (fun _ => trFeed_unsync_of_low rfl hphase h0) <|
    .cons (fun _ => trFeed_unsync_of_low rfl hphase h1) <|
    .cons (fun _ => trFeed_unsync_of_low rfl hphase h2) <|
    .cons (fun _ => trFeed_syncEntry rfl hphase rfl rfl rfl) (.nil _)

/-- An unmodulated first half is recorded as one (R156). -/
theorem trFeed_firstHalf_of_low {n : Nat} {x a b : Nib} {phase : TrPhase} {sub : TrSub} {c : Ctl}
    (hsync : phase ≠ .unsync) :
    trFeed n x (trSynced levelLow a b phase false sub) c = continueWith (trSynced a b x phase true .none) c := by
  rw [trFeed_recordsFirstHalf (t := trSynced levelLow a b phase false sub) rfl hsync rfl,
    trHalfModulated_of_low (t := trSynced levelLow a b phase false sub) rfl (by simp [trSynced])]
  rfl

/-- The rest of the SOF, whatever samples follow it: each of its bit periods spells the symbol its stage wants
(R159 to R161). -/
theorem trReads_sofStages {n : Nat} (a b c : Nib) :
    TrReads n [levelHigh, a, b, c] (trSynced levelHigh levelHigh levelLow .soc1 true .first)
      (trSynced a b c .sofc false .second) := by
  have hstage1 (k : Ctl) : trFeed n levelHigh (trSynced levelHigh levelHigh levelLow .soc1 true .first) k =
      continueWith (trSynced levelHigh levelLow levelHigh .soc2 true .none) k :=
    (trFeed_eq_trPhaseStep (y := .both) rfl (by simp [trSynced]) rfl (by decide)
        (.inl ⟨rfl, trHalfModulated_of_high rfl, rfl⟩)).trans
      ((trPhaseStep_soc1_cases rfl).resolve_right fun h => h.1 rfl).2
  have hstage2 (k : Ctl) : trFeed n a (trSynced levelHigh levelLow levelHigh .soc2 true .none) k =
      continueWith (trSynced levelLow levelHigh a .soc3 false .second) k :=
    (trFeed_eq_trPhaseStep (y := .second) rfl (by simp [trSynced]) rfl (by decide)
        (.inr (.inl ⟨rfl, trHalfModulated_of_high rfl, rfl⟩))).trans
      ((trPhaseStep_soc2_cases rfl).resolve_right fun h => h.1 rfl).2
  have hstage3 (k : Ctl) : trFeed n c (trSynced levelHigh a b .soc3 true .none) k =
      continueWith (trSynced a b c .sofc false .second) k :=
    (trFeed_eq_trPhaseStep (y := .second) rfl (by simp [trSynced]) rfl (by decide)
        (.inr (.inl ⟨rfl, trHalfModulated_of_high rfl, rfl⟩))).trans
      ((trPhaseStep_soc3_cases rfl).resolve_right fun h => h.1 rfl).2
  exact .cons hstage1 <| .cons hstage2 <|
    .cons (fun _ => trFeed_firstHalf_of_low (by decide)) <| .cons hstage3 (.nil _)

/-- The preamble and the next three samples leave the decoder after its SOF, with those three in the window. -/
theorem trReads_trSof {n : Nat} (a b c : Nib) {t : TrState} (hphase : t.phase = .unsync) (h0 : t.w0 = levelLow)
    (h1 : t.w1 = levelLow) (h2 : t.w2 = levelLow) :
    TrReads n (trSof ++ [a, b, c]) t (trSynced a b c .sofc false .second) :=
  (trReads_sync levelLow hphase h0 h1 h2).append (trReads_sofStages a b c)

/-- Settles O40: after the preamble and three unmodulated samples the decoder stands after its SOF; the two halves
of the next bit period carry no modulation, and that period completes the acknowledgement (R158). -/
theorem encTrSofReturnsThePreambleThatDecodesAsTheAck :
    Obligations.EncTrSofReturnsThePreambleThatDecodesAsTheAck := by
  unfold Obligations.EncTrSofReturnsThePreambleThatDecodesAsTheAck
  refine ⟨fun p => Laws.RoundTrip.encTrSof p rfl, exec_encTrSof, fun s hphase h0 h1 h2 => ?_⟩
  have hsof := trReads_trSof (n := s.params.maxFrameBytes) levelLow levelLow levelLow hphase h0 h1 h2
  have hsecond (c : Ctl) : trFeed s.params.maxFrameBytes levelLow
      (trSynced levelLow levelLow levelLow .sofc true .none) c =
        trComplete [0x0F#8] 0#3 (trSynced levelLow levelLow levelLow .sofc false .none) c :=
    ((trFeed_secondHalf_of_symbol rfl (by decide) rfl
        (.inr (.inr (.inr ⟨rfl, trHalfModulated_of_low rfl (by decide), rfl⟩)))).trans (if_pos rfl)).trans
      ((trNeither_cases _ c).resolve_right fun h => h.1 rfl).2
  have hreads := hsof.append (.cons (fun _ => trFeed_firstHalf_of_low (x := levelLow) (by decide)) (.nil _))
  exact ⟨_, hreads.run_complete hsecond, rfl, rfl, rfl⟩

end Machine
end Sys2Proof
end

section
/-!
PROOFS. The CRC-16 checker (43_crc16.md). The decoder's guard for its commands is settled once for both list
commands (R83, R87, R262); past the guards each command is one named update of the state, which is the update of
the statements. The two ways a check must fail are read off what its predicate asks (R234).
-/

namespace Sys2Proof

/-! ## Decoding -/

/-- A command of the CRC unit is refused without the unit, whatever its operand (R87). -/
theorem decode_of_crcAbsent {p : Params} {c : Command} {op : Opcode} (hop : opcodeOf c.cmd = some op)
    (hneeds : needsCrc op = true) (habsent : p.hasCrc = false) : decode p c = .error .noCrc := by
  rw [decode_of_opcode hop, hneeds, habsent]
  rfl

/-- With the CRC unit, no command without a list operand is refused (R83, R87). -/
theorem Instr.wellFormed_of_noList {p : Params} {i : Instr} (hpresent : p.hasCrc = true)
    (hlist : i.listOperand = none) : i.wellFormed p = true := by
  simp [Instr.wellFormed, Instr.crcPresent, Instr.listFits, hpresent, hlist]

/-- What a format-L command of the CRC unit decodes to: refused without the unit, without a list or with one too
long (R83, R87, R262). -/
theorem decode_crcListCommand {cmd : Byte} {op : Opcode} (hop : opcodeOf cmd = some op)
    (hneeds : needsCrc op = true) (hformat : formatOf op = .list) (p : Params) (l : List Byte) :
    (p.hasCrc = false → decode p { cmd := cmd, list := some l } = .error .noCrc)
      ∧ (p.hasCrc = true → decode p { cmd := cmd, list := none } = .error .shape)
      ∧ (p.hasCrc = true → l.length ≤ p.maxListBytes →
          decode p { cmd := cmd, list := some l } = .ok (assemble (argOf cmd) l op))
      ∧ (p.hasCrc = true → p.maxListBytes < l.length →
          decode p { cmd := cmd, list := some l } = .error .listTooLong) := by
  have hdecode (list : Option (List Byte)) := decode_of_opcode (p := p) (c := { cmd := cmd, list := list }) hop
  refine ⟨decode_of_crcAbsent hop hneeds, fun hpresent => ?_, fun hpresent hfits => ?_,
    fun hpresent hlong => ?_⟩
  · simp [hdecode, hpresent, hformat]
  · simp [hdecode, hpresent, hformat, hfits]
  · simp [hdecode, hpresent, hformat, Nat.not_le.mpr hlong]

namespace Machine

/-! ## The CRC of a list -/

/-- Shifting `n` times is the `n`-fold iterate of one shift (R231). -/
theorem crcShifts_eq_iterate (poly : Crc) (n : Nat) (c : Crc) :
    crcShifts poly n c = (crcShift poly)^[n] c := by
  induction n generalizing c with
  | zero => rfl
  | succ n ih => exact ih _

/-- The last byte of a list enters the CRC of the bytes before it (R231). -/
theorem crc16_concat (p : Params) (bs : List Byte) (b : Byte) :
    crc16 p (bs ++ [b]) = crcByte p.crcPoly (crc16 p bs) b :=
  crc16_append p bs [b]

/-- Settles O45: the last byte is XORed in and shifted through, one iterate per shift. -/
theorem crcFoldsEachByteThroughEightShifts : Obligations.CrcFoldsEachByteThroughEightShifts := by
  unfold Obligations.CrcFoldsEachByteThroughEightShifts
  refine fun p => ⟨crc16_nil p, fun bs b => ?_, crc16_nil _⟩
  rw [crc16_concat, crcByte, crcShifts_eq_iterate]
  rfl

/-! ## When a check fails -/

/-- A list of fewer than two bytes fails its check (R234). -/
theorem crcOk_of_short {p : Params} {bs : List Byte} {tb : BitVec 3} (hshort : bs.length < 2) :
    crcOk p bs tb = false := by
  refine Bool.eq_false_iff.mpr fun hok => ?_
  obtain ⟨_, hlength, _⟩ := (crcOk_eq_true p bs tb).mp hok
  omega

/-- A frame with a partial byte fails its check (R234). -/
theorem crcOk_of_partial {p : Params} {bs : List Byte} {tb : BitVec 3} (htb : tb ≠ 0#3) :
    crcOk p bs tb = false := by
  refine Bool.eq_false_iff.mpr fun hok => ?_
  obtain ⟨haligned, _, _⟩ := (crcOk_eq_true p bs tb).mp hok
  exact htb haligned

/-! ## The four commands -/

/-- Settles O48: past both guards the command hands back the CRC's two bytes, which make it up (R233). -/
theorem crcComputeReturnsTheTwoBytes : Obligations.CrcComputeReturnsTheTwoBytes := by
  unfold Obligations.CrcComputeReturnsTheTwoBytes
  refine ⟨decode_crcListCommand (op := .crcCompute) (by decide) rfl rfl, fun s l hpresent hfits =>
    ⟨crcLow (crc16 s.params l), crcHigh (crc16 s.params l), crcHigh_append_crcLow _, ?_⟩⟩
  rw [exec_crcCompute, State.whenCrc_present hpresent, State.whenListFits_of_le hfits]
  rfl

/-- Settles O49: past both guards the command is the check of its list. -/
theorem crcCheckLWritesCrcOk : Obligations.CrcCheckLWritesCrcOk := by
  unfold Obligations.CrcCheckLWritesCrcOk
  refine ⟨decode_crcListCommand (op := .crcCheckL) (by decide) rfl rfl, fun s l hpresent hfits =>
    ⟨?_, crcOk_of_short⟩⟩
  rw [exec_crcCheckL, State.whenCrc_present hpresent, State.whenListFits_of_le hfits]
  rfl

/-- Settles O50: the command bytes are the encodings of the two checks; past the guard each is the check of its
latch. -/
theorem crcChecksOfTheLatchesWriteCrcOk : Obligations.CrcChecksOfTheLatchesWriteCrcOk := by
  unfold Obligations.CrcChecksOfTheLatchesWriteCrcOk
  refine ⟨fun p => ⟨fun hpresent => ?_, fun habsent => ?_⟩, fun s hpresent => ⟨?_, ?_, crcOk_of_partial⟩⟩
  · exact ⟨Laws.RoundTrip.crcCheckRt p (Instr.wellFormed_of_noList hpresent rfl),
      Laws.RoundTrip.crcCheckTr p (Instr.wellFormed_of_noList hpresent rfl)⟩
  · exact ⟨decode_of_crcAbsent (op := .crcCheckRt) (by decide) rfl habsent,
      decode_of_crcAbsent (op := .crcCheckTr) (by decide) rfl habsent⟩
  · rw [exec_crcCheckRt, State.whenCrc_present hpresent]
    rfl
  · rw [exec_crcCheckTr, State.whenCrc_present hpresent]
    rfl

end Machine
end Sys2Proof
end

section
/-!
PROOFS. Block control and status (44_control.md). The statement of BLK_RESET is its arm, whose three units write out
the pseudocode of R250. The statement of STATUS_READ reads its byte bit by bit off the law `statusByte_bits`; the two
view bits then say what RT_SYNC and TR_SYNC ask of the phases (R47).
-/

namespace Sys2Proof.Machine

/-! ## BLK_RESET -/

/-- After a BLK_RESET the STATUS byte is 0: no flag is stored and neither decoder is synchronized (R46, R250). -/
theorem statusByte_blockReset : statusByte rtBlockReset trBlockReset ctlBlockReset = 0x00#8 := by decide

/-- Settles O12: the command byte is the encoding of BLK_RESET, whose arm writes the three units and nothing else;
STATUS is read off those three. -/
theorem blkResetRestoresThePowerOnState : Obligations.BlkResetRestoresThePowerOnState := by
  unfold Obligations.BlkResetRestoresThePowerOnState
  exact ⟨fun p => Laws.RoundTrip.blkReset p rfl, fun s => ⟨exec_blkReset s, statusByte_blockReset⟩⟩

/-! ## STATUS_READ -/

/-- A bit of the STATUS byte is the entry at its place in the list of its bits (R46). -/
theorem statusByte_getLsbD_of_getElem? {r : RtState} {t : TrState} {c : Ctl} {k : Nat} {b : Bool}
    (hbit : [c.rtDone, c.trDone, c.crcOk, c.rtOvr, c.trOvr, rtSync r, trSync t, false][k]? = some b) :
    (statusByte r t c).getLsbD k = b := by
  rw [← statusByte_bits, List.getElem?_map, Option.map_eq_some_iff] at hbit
  obtain ⟨i, hplace, hvalue⟩ := hbit
  obtain ⟨_, rfl⟩ := List.getElem?_eq_some_iff.mp hplace
  simpa using hvalue

/-- RT_SYNC is 1 exactly where the R→T decoder is synchronized (R47). -/
theorem rtSync_eq_true (r : RtState) : rtSync r = true ↔ r.phase ≠ .unsync := decide_eq_true_iff

/-- TR_SYNC is 1 exactly where the T→R decoder is synchronized (R47). -/
theorem trSync_eq_true (t : TrState) : trSync t = true ↔ t.phase ≠ .unsync := decide_eq_true_iff

/-- Settles O51: the command byte is the encoding of STATUS_READ, whose arm hands back the STATUS byte; five of its
bits are the stored flags, two the views of the phases, and the last is 0. -/
theorem statusReadReturnsFlagsAndPhaseViews : Obligations.StatusReadReturnsFlagsAndPhaseViews := by
  unfold Obligations.StatusReadReturnsFlagsAndPhaseViews
  refine ⟨fun p => Laws.RoundTrip.statusRead p rfl, fun s =>
    ⟨statusByte s.rt s.tr s.ctl, exec_statusRead s, ?rtDone, ?trDone, ?crcOk, ?rtOvr, ?trOvr, ?rtSync, ?trSync,
      ?reserved⟩⟩
  case rtSync => rw [statusByte_getLsbD_five, rtSync_eq_true]
  case trSync => rw [statusByte_getLsbD_six, trSync_eq_true]
  all_goals exact statusByte_getLsbD_of_getElem? rfl

end Sys2Proof.Machine
end

section
/-!
PROOFS. Power-on reset (70_reset_and_hazards.md). The model writes the table of R290 and the pseudocode of R250 out
apart from each other, once per unit; that the two agree is a lemma per unit, and BLK_RESET then reaches the power-on
values from every state because its arm does not look at the units it overwrites.
-/

namespace Sys2Proof.Machine

/-! ## BLK_RESET writes the power-on values -/

theorem rtBlockReset_eq_por : rtBlockReset = RtState.por := rfl

theorem trBlockReset_eq_por : trBlockReset = TrState.por := rfl

theorem ctlBlockReset_eq_por : ctlBlockReset = Ctl.por := rfl

/-- After a BLK_RESET, from any state, the three units are as power-on left them (R250, R290). -/
theorem exec_blkReset_units {s t : State} (hrun : exec .blkReset s = .next t) :
    t.rt = RtState.por ∧ t.tr = TrState.por ∧ t.ctl = Ctl.por := by
  rw [exec_blkReset] at hrun
  obtain rfl := Host.Outcome.next.inj hrun
  exact ⟨rtBlockReset_eq_por, trBlockReset_eq_por, ctlBlockReset_eq_por⟩

/-- Settles O11: the units and the mark of `State.reset` are the entries of the table of R290 by definition, and
BLK_RESET leaves the three units at those power-on values. -/
theorem powerOnLeavesTheTableValues : Obligations.PowerOnLeavesTheTableValues := by
  unfold Obligations.PowerOnLeavesTheTableValues
  refine ⟨?rt, ?tr, ?ctl, ?mark, fun s t hrun => exec_blkReset_units hrun⟩
  case rt => rfl
  case tr => rfl
  case ctl => rfl
  case mark => rfl

end Sys2Proof.Machine
end

section
/-!
PROOFS. The command encoding and the step (30_encoding.md R80 to R88, 60_exceptions.md R262). The three byte
predicates of the statements are the opcode map read by name, format and family (R85 to R88); the decoder's five
answers then follow the order of R262. A step hands on what the decoder or the instruction answered, and an
instruction answers by its row of R252 where it is well-formed and as a refused command where it is not.
-/

namespace Sys2Proof

/-! ## The decoder accepts exactly the encodings -/

/-- A well-formed instruction is what its encoding decodes to (R85). -/
theorem decode_encode {p : Params} {i : Instr} (hwf : i.wellFormed p = true) : decode p (encode i) = .ok i := by
  cases i with
  | rtFeed s => exact Laws.RoundTrip.rtFeed s p hwf
  | trFeed s => exact Laws.RoundTrip.trFeed s p hwf
  | rtReset => exact Laws.RoundTrip.rtReset p hwf
  | trReset => exact Laws.RoundTrip.trReset p hwf
  | blkReset => exact Laws.RoundTrip.blkReset p hwf
  | encRt l => exact Laws.RoundTrip.encRt l p hwf
  | encTr l => exact Laws.RoundTrip.encTr l p hwf
  | encTrSof => exact Laws.RoundTrip.encTrSof p hwf
  | crcCompute l => exact Laws.RoundTrip.crcCompute l p hwf
  | crcCheckL l => exact Laws.RoundTrip.crcCheckL l p hwf
  | crcCheckRt => exact Laws.RoundTrip.crcCheckRt p hwf
  | crcCheckTr => exact Laws.RoundTrip.crcCheckTr p hwf
  | rtRead => exact Laws.RoundTrip.rtRead p hwf
  | trRead => exact Laws.RoundTrip.trRead p hwf
  | statusRead => exact Laws.RoundTrip.statusRead p hwf

/-- What an instruction needs in order not to be refused: the CRC unit for its commands, and a list that fits
(R83, R87). -/
theorem Instr.wellFormed_iff (p : Params) (i : Instr) :
    i.wellFormed p = true ↔
      (i.usesCrc = true → p.hasCrc = true) ∧ ∀ l, i.listOperand = some l → l.length ≤ p.maxListBytes := by
  have hcrc : i.crcPresent p = true ↔ (i.usesCrc = true → p.hasCrc = true) := by
    cases h : i.usesCrc <;> simp [Instr.crcPresent, h]
  have hlist : i.listFits p = true ↔ ∀ l, i.listOperand = some l → l.length ≤ p.maxListBytes := by
    cases h : i.listOperand <;> simp [Instr.listFits, h]
  rw [Instr.wellFormed, Bool.and_eq_true, hcrc, hlist]

/-- An assembled instruction is of its command's family (R85, R87). -/
@[simp] theorem assemble_usesCrc (s : Nib) (l : List Byte) (op : Opcode) :
    (assemble s l op).usesCrc = needsCrc op := by
  cases op <;> rfl

/-- An assembled instruction carries a list exactly where its command's format wants one (R83, R84). -/
@[simp] theorem assemble_listOperand (s : Nib) (l : List Byte) (op : Opcode) :
    (assemble s l op).listOperand = if formatOf op = .list then some l else none := by
  cases op <;> rfl

/-- The command byte of a row's pattern is the one that encodes the row's instruction (R81, R85). -/
theorem encode_assemble {b : Byte} {op : Opcode} (h : opcodeOf b = some op) (l : List Byte) :
    encode (assemble (argOf b) l op) = { cmd := b, list := if formatOf op = .list then some l else none } := by
  have hb := opcOf_append_argOf b
  have hrow := (opcodeOf_eq_some b op).mp h
  cases op with
  | rtFeed | trFeed =>
    rw [of_decide_eq_true hrow] at hb
    exact congrArg (fun cmd => { cmd := cmd, list := none : Command }) hb
  | rtReset | trReset | blkReset | encRt | encTr | encTrSof | crcCompute | crcCheckL | crcCheckRt | crcCheckTr
  | rtRead | trRead | statusRead =>
    rw [of_decide_eq_true hrow]
    rfl

/-- The five answers of the decoder, the refusals in the order in which they are checked (R262). -/
theorem decode_cases (p : Params) (c : Command) :
    (opcodeOf c.cmd = none ∧ decode p c = .error .reserved)
      ∨ ∃ op, opcodeOf c.cmd = some op ∧
        ((needsCrc op = true ∧ p.hasCrc = false ∧ decode p c = .error .noCrc)
          ∨ (needsCrc op = true → p.hasCrc = true) ∧
            (((formatOf op = .list ↔ c.list = none) ∧ decode p c = .error .shape)
              ∨ (formatOf op = .list ∧ ∃ l, c.list = some l ∧ p.maxListBytes < l.length
                  ∧ decode p c = .error .listTooLong)
              ∨ ∃ l, c.list = (if formatOf op = .list then some l else none)
                  ∧ (formatOf op = .list → l.length ≤ p.maxListBytes)
                  ∧ decode p c = .ok (assemble (argOf c.cmd) l op))) := by
  cases hop : opcodeOf c.cmd with
  | none => exact .inl ⟨rfl, decode_of_reserved hop⟩
  | some op =>
    refine .inr ⟨op, rfl, ?_⟩
    rw [decode_of_opcode hop]
    by_cases hcrc : needsCrc op = true → p.hasCrc = true
    · have hguard : ¬ (needsCrc op && !p.hasCrc) = true := by simpa using hcrc
      rw [if_neg hguard]
      refine .inr ⟨hcrc, ?_⟩
      cases hformat : formatOf op with
      | list =>
        cases c.list with
        | none => exact .inl ⟨by simp, rfl⟩
        | some l =>
          refine .inr ?_
          by_cases hfits : l.length ≤ p.maxListBytes
          · exact .inr ⟨l, rfl, fun _ => hfits, if_pos hfits⟩
          · exact .inl ⟨rfl, l, rfl, Nat.not_le.mp hfits, if_neg hfits⟩
      | sample | control =>
        cases c.list with
        | none => exact .inr (.inr ⟨[], by simp, by simp, rfl⟩)
        | some l => exact .inl ⟨by simp, rfl⟩
    · obtain ⟨hneeds, habsent⟩ : needsCrc op = true ∧ p.hasCrc = false := by simpa using hcrc
      exact .inl ⟨hneeds, habsent, by rw [hneeds, habsent]; rfl⟩

/-- What a raw command that decodes holds: the encoding of a well-formed instruction. -/
theorem wellFormed_and_encode_of_decode {p : Params} {c : Command} {i : Instr} (h : decode p c = .ok i) :
    i.wellFormed p = true ∧ c = encode i := by
  rcases decode_cases p c with
    ⟨-, hd⟩ | ⟨op, hop, ⟨-, -, hd⟩ | ⟨hcrc, ⟨-, hd⟩ | ⟨-, l, -, -, hd⟩ | ⟨l, hlist, hfits, hd⟩⟩⟩ <;>
    rw [hd] at h
  all_goals cases h
  refine ⟨(Instr.wellFormed_iff p _).mpr ⟨by simpa using hcrc, fun l' hl' => ?_⟩, ?_⟩
  · by_cases hformat : formatOf op = .list
    · obtain rfl : l = l' := by simpa [hformat] using hl'
      exact hfits hformat
    · simp [hformat] at hl'
  · rw [encode_assemble hop, ← hlist]

/-- Settles O1: the round trip of every instruction, and what a raw command that decodes holds. -/
theorem decodeAcceptsExactlyTheEncodings : Obligations.DecodeAcceptsExactlyTheEncodings := by
  unfold Obligations.DecodeAcceptsExactlyTheEncodings
  intro p c i
  constructor
  · exact wellFormed_and_encode_of_decode
  · rintro ⟨hwf, rfl⟩
    exact decode_encode hwf

/-- Settles O2: each word is the encoding of the instruction it decodes to. -/
theorem commandWordsDecodeAsTheMapSays : Obligations.CommandWordsDecodeAsTheMapSays := by
  unfold Obligations.CommandWordsDecodeAsTheMapSays
  exact ⟨Laws.RoundTrip.rtFeed 0xA#4 _ rfl, Laws.RoundTrip.trFeed 0x5#4 _ rfl, Laws.RoundTrip.blkReset _ rfl,
    Laws.RoundTrip.encTr [0x0A#8] _ rfl, Laws.RoundTrip.crcCheckL [] _ rfl, Laws.RoundTrip.statusRead _ rfl⟩

namespace Machine

/-! ## The command bytes of the statements -/

/-- The reserved ranges are the bytes of no row (R86). -/
theorem reservedByte_eq_true (b : Byte) : reservedByte b = true ↔ opcodeOf b = none := by
  revert b; decide

/-- The bytes of the CRC-16 checker are those of its commands (R87). -/
theorem crcCommandByte_eq (b : Byte) : crcCommandByte b = (opcodeOf b).any needsCrc := by
  revert b; decide

/-- The bytes a list follows are those of the format-L commands (R88). -/
theorem listByte_eq (b : Byte) : listByte b = (opcodeOf b).any fun op => decide (formatOf op = .list) := by
  revert b; decide

/-- A byte is reserved, or it names a command. -/
theorem reservedByte_eq_false {b : Byte} (h : reservedByte b = false) : ∃ op, opcodeOf b = some op := by
  cases hop : opcodeOf b with
  | none => rw [(reservedByte_eq_true b).mpr hop] at h; cases h
  | some op => exact ⟨op, rfl⟩

/-- A byte that a list follows names a command. -/
theorem opcodeOf_of_listByte {b : Byte} (h : listByte b = true) :
    ∃ op, opcodeOf b = some op ∧ formatOf op = .list := by
  simpa [listByte_eq, Option.any_eq_true] using h

/-- The decoder refuses as reserved exactly the reserved bytes (R86). -/
theorem decode_eq_reserved (p : Params) (c : Command) :
    decode p c = .error .reserved ↔ reservedByte c.cmd = true := by
  rw [reservedByte_eq_true]
  constructor
  · intro h
    rcases decode_cases p c with
      ⟨hop, -⟩ | ⟨op, hop, ⟨-, -, hd⟩ | ⟨-, ⟨-, hd⟩ | ⟨-, l, -, -, hd⟩ | ⟨l, -, -, hd⟩⟩⟩
    · exact hop
    all_goals simp [h] at hd
  · exact decode_of_reserved

/-- Without the CRC unit its four command bytes are refused, whatever their operand (R87). -/
theorem decode_eq_noCrc {p : Params} {c : Command} (habsent : p.hasCrc = false)
    (hbyte : crcCommandByte c.cmd = true) : decode p c = .error .noCrc := by
  obtain ⟨op, hop, hneeds⟩ : ∃ op, opcodeOf c.cmd = some op ∧ needsCrc op = true := by
    simpa [crcCommandByte_eq, Option.any_eq_true] using hbyte
  exact decode_of_crcAbsent hop hneeds habsent

/-- Past the first two checks, a list where the format wants none, or none where it wants one, is refused (R83). -/
theorem decode_eq_shape {p : Params} {c : Command} (hreserved : reservedByte c.cmd = false)
    (hcrc : crcCommandByte c.cmd = true → p.hasCrc = true) (hshape : listByte c.cmd = true ↔ c.list = none) :
    decode p c = .error .shape := by
  obtain ⟨op, hop⟩ := reservedByte_eq_false hreserved
  simp only [crcCommandByte_eq, listByte_eq, hop, Option.any_some, decide_eq_true_eq] at hcrc hshape
  rw [decode_of_opcode hop, if_neg (by simpa using hcrc)]
  cases hformat : formatOf op with
  | list => rw [hshape.mp hformat]
  | sample | control =>
    obtain ⟨l, hlist⟩ := Option.ne_none_iff_exists'.mp fun hnone => by simpa [hformat] using hshape.mpr hnone
    rw [hlist]

/-- Past the first three checks, a list with too many bytes is refused (R83). -/
theorem decode_eq_listTooLong {p : Params} {c : Command} {l : List Byte} (hlist : c.list = some l)
    (hbyte : listByte c.cmd = true) (hcrc : crcCommandByte c.cmd = true → p.hasCrc = true)
    (hlong : p.maxListBytes < l.length) : decode p c = .error .listTooLong := by
  obtain ⟨op, hop, hformat⟩ := opcodeOf_of_listByte hbyte
  simp only [crcCommandByte_eq, hop, Option.any_some] at hcrc
  rw [decode_of_opcode hop, if_neg (by simpa using hcrc), hformat, hlist]
  exact if_neg (Nat.not_le.mpr hlong)

/-! ## The step -/

/-- A step with nothing issued holds the state (R275). -/
theorem step_idle {s : State} (hstream : s.stream = []) : step s = .next s := by
  simp only [step, hstream]

/-- A step runs the instruction the next command decodes to (R71). -/
theorem step_of_decode_ok {s : State} {c : Command} {rest : List Command} {i : Instr}
    (hstream : s.stream = c :: rest) (hd : decode s.params c = .ok i) :
    step s = exec i (s.withStream rest) := by
  simp only [step, hstream, hd]

/-- A step with a refused command next records the refusal and takes the command (R262). -/
theorem step_of_decode_error {s : State} {c : Command} {rest : List Command} {cause : RefusalCause}
    (hstream : s.stream = c :: rest) (hd : decode s.params c = .error cause) :
    step s = .next { refusedWith cause s with stream := rest } := by
  simp only [step, hstream, hd]
  rfl

/-- Settles O7: the decoder's answer decides the step. -/
theorem stepRunsTheNextDecodedCommand : Obligations.StepRunsTheNextDecodedCommand := by
  unfold Obligations.StepRunsTheNextDecodedCommand
  intro s c rest i
  exact step_of_decode_ok

/-- Settles O8: with no command to take, the step answers the state itself. -/
theorem idleStepHoldsTheState : Obligations.IdleStepHoldsTheState := by
  unfold Obligations.IdleStepHoldsTheState
  intro s
  exact step_idle

/-- Settles O3: the ranges are the bytes of no row, and the decoder's answer decides the step. -/
theorem reservedCommandIsRefusedAndChangesNoUnit : Obligations.ReservedCommandIsRefusedAndChangesNoUnit := by
  unfold Obligations.ReservedCommandIsRefusedAndChangesNoUnit
  exact ⟨decode_eq_reserved, fun s c rest hstream hbyte =>
    step_of_decode_error hstream ((decode_eq_reserved s.params c).mpr hbyte)⟩

/-! ## What an instruction answers -/

/-- A well-formed instruction passes its guards: it hands back the result of its row and leaves the refusal mark
alone (R252, R262). -/
theorem exec_of_wellFormed {i : Instr} {s : State} (hwf : i.wellFormed s.params = true) :
    ∃ r t, exec i s = .next t ∧ t.results = r :: s.results ∧ isResultOf i r = true
      ∧ t.refusalMark = s.refusalMark := by
  obtain ⟨hcrc, hlist⟩ := (Instr.wellFormed_iff s.params i).mp hwf
  cases i with
  | rtFeed | trFeed | rtReset | trReset | blkReset | encTrSof | rtRead | trRead | statusRead =>
    exact ⟨_, _, rfl, rfl, rfl, rfl⟩
  | encRt l | encTr l =>
    exact ⟨_, _, congrArg Host.Outcome.next (State.whenListFits_of_le (hlist l rfl)), rfl, rfl, rfl⟩
  | crcCompute l | crcCheckL l =>
    exact ⟨_, _, congrArg Host.Outcome.next
      ((State.whenCrc_present (hcrc rfl)).trans (State.whenListFits_of_le (hlist l rfl))),
      rfl, rfl, rfl⟩
  | crcCheckRt | crcCheckTr =>
    exact ⟨_, _, congrArg Host.Outcome.next (State.whenCrc_present (hcrc rfl)), rfl, rfl, rfl⟩

/-- The list guard refuses exactly what its well-formedness check refuses. -/
theorem State.whenListFits_of_not_fits {l : List Byte} {s go : State} (h : ¬ l.length ≤ s.params.maxListBytes) :
    s.whenListFits l go = refusedWith .listTooLong s :=
  State.whenListFits_of_lt (Nat.not_le.mp h)

/-- An instruction that is not well-formed fails one of its guards and is refused (log entry 3). -/
theorem exec_of_not_wellFormed {i : Instr} {s : State} (hwf : i.wellFormed s.params = false) :
    ∃ cause, exec i s = .next (refusedWith cause s) := by
  have hill := mt (Instr.wellFormed_iff s.params i).mpr (Bool.eq_false_iff.mp hwf)
  cases i with
  | rtFeed | trFeed | rtReset | trReset | blkReset | encTrSof | rtRead | trRead | statusRead =>
    simp [Instr.usesCrc, Instr.listOperand] at hill
  | encRt l | encTr l =>
    have hlong : ¬ l.length ≤ s.params.maxListBytes := by
      simpa [Instr.usesCrc, Instr.listOperand] using hill
    exact ⟨.listTooLong, congrArg _ (State.whenListFits_of_not_fits hlong)⟩
  | crcCompute l | crcCheckL l =>
    cases hcrc : s.params.hasCrc with
    | false => exact ⟨.noCrc, congrArg _ (State.whenCrc_absent hcrc)⟩
    | true =>
      have hlong : ¬ l.length ≤ s.params.maxListBytes := by
        simpa [Instr.usesCrc, Instr.listOperand, hcrc] using hill
      exact ⟨.listTooLong, congrArg _ ((State.whenCrc_present hcrc).trans (State.whenListFits_of_not_fits hlong))⟩
  | crcCheckRt | crcCheckTr =>
    have habsent : s.params.hasCrc = false := by simpa [Instr.usesCrc, Instr.listOperand] using hill
    exact ⟨.noCrc, congrArg _ (State.whenCrc_absent habsent)⟩

/-- Settles O10: the row of a well-formed instruction, the refusal of any other, and the step's answer to a
refused command. -/
theorem everyCommandReturnsTheResultOfItsRow : Obligations.EveryCommandReturnsTheResultOfItsRow := by
  unfold Obligations.EveryCommandReturnsTheResultOfItsRow
  refine ⟨fun i s => ?_, fun s c rest cause hstream hd => ⟨_, step_of_decode_error hstream hd, rfl⟩⟩
  cases hwf : i.wellFormed s.params with
  | true =>
    obtain ⟨r, t, hrun, hresults, hrow, -⟩ := exec_of_wellFormed hwf
    exact ⟨r, t, hrun, hresults, fun _ => hrow, nofun⟩
  | false =>
    obtain ⟨cause, hrun⟩ := exec_of_not_wellFormed hwf
    exact ⟨.refused cause, _, hrun, rfl, nofun, fun _ => ⟨cause, rfl, rfl⟩⟩

/-- Settles O5: an instruction that was decoded is well-formed. -/
theorem onlyRefusedCommandsSetTheMark : Obligations.OnlyRefusedCommandsSetTheMark := by
  unfold Obligations.OnlyRefusedCommandsSetTheMark
  intro s t c rest i hstream hd hstep
  obtain ⟨hwf, -⟩ := wellFormed_and_encode_of_decode hd
  obtain ⟨r, u, hrun, -, -, hmark⟩ := exec_of_wellFormed (s := s.withStream rest) hwf
  rw [step_of_decode_ok hstream hd, hrun] at hstep
  obtain rfl := Host.Outcome.next.inj hstep
  exact hmark

/-- No instruction clears the refusal mark (R262). -/
theorem exec_keeps_mark {i : Instr} {s t : State} (h : exec i s = .next t) (hmark : s.refusalMark = true) :
    t.refusalMark = true := by
  cases hwf : i.wellFormed s.params with
  | true =>
    obtain ⟨r, u, hrun, -, -, hkeeps⟩ := exec_of_wellFormed hwf
    obtain rfl := Host.Outcome.next.inj (hrun.symm.trans h)
    exact hkeeps.trans hmark
  | false =>
    obtain ⟨cause, hrun⟩ := exec_of_not_wellFormed hwf
    obtain rfl := Host.Outcome.next.inj (hrun.symm.trans h)
    rfl

/-- A property that every instruction keeps, and that neither the stream nor a refusal can change, is kept by
every step. -/
theorem step_keeps {P : State → Prop} (hstream : ∀ s rest, P s → P (s.withStream rest))
    (hrefuse : ∀ s cause, P s → P (s.refuse cause)) (hexec : ∀ i s t, exec i s = .next t → P s → P t)
    {s t : State} (hstep : step s = .next t) (hs : P s) : P t := by
  rcases step_cases s with ⟨-, h⟩ | ⟨c, rest, -, ⟨i, -, h⟩ | ⟨cause, -, h⟩⟩ <;> rw [h] at hstep
  · obtain rfl := Host.Outcome.next.inj hstep
    exact hs
  · exact hexec i _ t hstep (hstream s rest hs)
  · obtain rfl := Host.Outcome.next.inj hstep
    exact hrefuse _ cause (hstream s rest hs)

/-- Settles O4: the decoder's answer in each of the four cases, and the mark that every step keeps. -/
theorem refusalsAreCheckedInOrderAndTheMarkStays : Obligations.RefusalsAreCheckedInOrderAndTheMarkStays := by
  unfold Obligations.RefusalsAreCheckedInOrderAndTheMarkStays
  refine ⟨fun s c rest hstream => ⟨fun hbyte => ?_, fun _ hbyte habsent => ?_, fun hreserved hcrc hshape => ?_,
    fun l hlist hbyte hcrc hlong => ?_⟩, fun s t hstep hunsafe => ?_⟩
  · exact step_of_decode_error hstream ((decode_eq_reserved s.params c).mpr hbyte)
  · exact step_of_decode_error hstream (decode_eq_noCrc habsent hbyte)
  · exact step_of_decode_error hstream (decode_eq_shape hreserved hcrc hshape)
  · exact step_of_decode_error hstream (decode_eq_listTooLong hlist hbyte hcrc hlong)
  · have hmark : t.refusalMark = true :=
      step_keeps (P := fun s => s.refusalMark = true) (fun _ _ h => h) (fun _ _ _ => rfl)
        (fun _ _ _ h => exec_keeps_mark h) hstep (Bool.of_not_eq_false hunsafe)
    simp [State.Safe, hmark]

/-- Settles O9: a step answers in each of its three cases, and an instruction adds its one result. -/
theorem everyStepAnswersAndHandsBackOneResult : Obligations.EveryStepAnswersAndHandsBackOneResult := by
  unfold Obligations.EveryStepAnswersAndHandsBackOneResult
  intro s
  rcases step_cases s with ⟨hstream, h⟩ | ⟨c, rest, hstream, ⟨i, -, h⟩ | ⟨cause, -, h⟩⟩ <;> rw [h, hstream]
  · exact ⟨s, rfl, hstream, rfl, fun _ => rfl, fun hne => absurd rfl hne⟩
  · obtain ⟨t, hrun⟩ := exec_answers i (s.withStream rest)
    obtain ⟨hparams, hrest, hresult⟩ := exec_frame hrun
    exact ⟨t, hrun, hrest, hparams, nofun, fun _ => hresult⟩
  · exact ⟨_, rfl, rfl, rfl, nofun, fun _ => ⟨_, rfl⟩⟩

end Machine
end Sys2Proof
end

section
/-!
PROOFS. What a feed hands over, and what it leaves unchanged (40_ppm_decoder.md R117, 41_manchester_decoder.md R164,
R169, 10_state.md R53). The laws `rtFeed_handsOver` and `trFeed_handsOver` say what a feed does to the control unit.
That the order of the two feeds of one sample tick does not matter needs one fact more: neither decoder reads the
control unit, so a feed does the same to every content of it. That is `LatchesAlike`, proved procedure by procedure.
-/

namespace Sys2Proof.Machine

/-! ## What a feed hands over -/

/-- Settles O21: an RT_FEED completes on a first-half drop after one slot in RECV, and leaves the control unit alone
in every other case. -/
theorem rtFeedHandsOverAFrameOnlyAtEndOfCommunication :
    Obligations.RtFeedHandsOverAFrameOnlyAtEndOfCommunication := by
  unfold Obligations.RtFeedHandsOverAFrameOnlyAtEndOfCommunication
  intro s x
  refine ⟨_, exec_rtFeed x s, ?_⟩
  rcases rtFeed_handsOver s.params.maxFrameBytes x s.rt s.ctl with
    ⟨hphase, hhalf, hslot, hdrop, hfeed⟩ | ⟨hnot, hcontinue, hctl⟩
  · rw [hfeed]
    refine ⟨fun _ => ⟨rfl, latchRt_frame _ _, rfl⟩, fun hnot => absurd ⟨hphase, hhalf, hslot, hdrop⟩ hnot⟩
  · refine ⟨fun hend => absurd hend hnot, fun _ => ⟨?_, hctl⟩⟩
    rw [State.takeRt_results, hcontinue]

/-- The warm-up count stands at 3 once the warm-up is over (R36). -/
theorem TrState.warm_eq_three {t : TrState} (hwarm : ¬ t.warm.toNat < 3) : t.warm = 3#2 := by
  have := t.warm.isLt
  exact BitVec.eq_of_toNat_eq (show t.warm.toNat = 3 by omega)

/-- Settles O33: a TR_FEED completes at the end of a bit period in SOFC or EOFF with a silent reset, or leaves the
control unit alone. -/
theorem trFeedHandsOverAFrameOnlyInSofcOrEoff : Obligations.TrFeedHandsOverAFrameOnlyInSofcOrEoff := by
  unfold Obligations.TrFeedHandsOverAFrameOnlyInSofcOrEoff
  intro s x
  refine ⟨_, exec_trFeed x s, ?_⟩
  rcases trFeed_handsOver s.params.maxFrameBytes x s.tr s.ctl with
    ⟨hcontinue, hctl⟩ | ⟨hwarm, hhalf, hphase, bytes, tb, m, hfeed⟩
  · exact .inl ⟨by rw [State.takeTr_results, hcontinue], hctl⟩
  · rw [hfeed]
    exact .inr ⟨rfl, TrState.warm_eq_three hwarm, hhalf, hphase, rfl, bytes, tb, latchTr_eq_trLatched bytes tb _⟩

/-- In EOFF the phase step is the end of the frame (R164). -/
theorem trPhaseStep_eoff {n : Nat} {t : TrState} {c : Ctl} (hphase : t.phase = .eoff) :
    trPhaseStep n t c = trEndOfFrame n t c := by
  simp only [trPhaseStep, hphase]

/-- Settles O31: the four answers at the end of a frame. -/
theorem trEndOfFrameHandsOverBytesAndTrailingBits : Obligations.TrEndOfFrameHandsOverBytesAndTrailingBits := by
  unfold Obligations.TrEndOfFrameHandsOverBytesAndTrailingBits
  intro s x y hwarm hhalf hphase hbc hy hsymbol
  have hfeed : trFeed s.params.maxFrameBytes x s.tr s.ctl =
      trEndOfFrame s.params.maxFrameBytes (s.tr.atSymbol x y) s.ctl :=
    (trFeed_eq_trPhaseStep hwarm (by simp [hphase]) hhalf hy hsymbol).trans
      (trPhaseStep_eoff (t := s.tr.atSymbol x y) hphase)
  have hend := trEndOfFrame_cases s.params.maxFrameBytes (s.tr.atSymbol x y) s.ctl
  have hbyte : partialByte s.tr.sr s.tr.bc =
      BitVec.ofNat 8 (s.tr.sr.toNat / 2 ^ (8 - s.tr.bc.toNat) % 2 ^ (s.tr.bc.toNat - 1)) := by
    rw [← partialByte_toNat s.tr.sr s.tr.bc hbc, BitVec.ofNat_toNat, BitVec.setWidth_eq]
  refine ⟨fun hbuf hzero => ?_, fun hsome hone => ?_, fun htwo hroom => ?_, fun htwo hfull => ?_⟩
  · exact exec_trFeed_of_continue (hfeed.trans (by simpa [trShifted, hbuf, hzero] using hend))
  · have hnot : ¬ (s.tr.buf = [] ∧ s.tr.bc = 0#4) := not_and_or.mpr hsome
    have hnotTwo : ¬ 2 ≤ s.tr.bc.toNat := Nat.not_le.mpr hone
    exact exec_trFeed_of_complete (t := s.tr.atSymbol x y)
      (hfeed.trans (by simpa [trShifted, ← and_assoc, hnot, hone, hnotTwo] using hend))
  · have hnotZero : s.tr.bc ≠ 0#4 := fun h => by simp [h] at htwo
    rw [← hbyte]
    exact exec_trFeed_of_complete (t := s.tr.atSymbol x y)
      (hfeed.trans (by simpa [trShifted, htwo, Nat.not_lt.mpr htwo, hroom, hnotZero] using hend))
  · have hnotZero : s.tr.bc ≠ 0#4 := fun h => by simp [h] at htwo
    exact exec_trFeed_of_continue
      (hfeed.trans (by simpa [trShifted, htwo, Nat.not_lt.mpr htwo, hfull, hnotZero] using hend))

/-! ## What a feed leaves unchanged -/

/-- Everything an RT_FEED can do to the control unit: nothing, or latch a frame (R115, R117). -/
theorem rtFeed_ctl_cases (n : Nat) (x : Nib) (r : RtState) (c : Ctl) :
    (rtFeed n x r c).ctl = c ∨ ∃ f, (rtFeed n x r c).ctl = c.latchRt f := by
  rcases rtFeed_handsOver n x r c with ⟨-, -, -, -, h⟩ | ⟨-, -, h⟩
  · exact .inr ⟨_, by rw [h]; rfl⟩
  · exact .inl h

/-- Everything a TR_FEED can do to the control unit: nothing, or latch a frame (R166, R169). -/
theorem trFeed_ctl_cases (n : Nat) (x : Nib) (t : TrState) (c : Ctl) :
    (trFeed n x t c).ctl = c ∨ ∃ f, (trFeed n x t c).ctl = c.latchTr f := by
  rcases trFeed_handsOver n x t c with ⟨-, h⟩ | ⟨-, -, -, bytes, tb, m, h⟩
  · exact .inl h
  · exact .inr ⟨_, by rw [h]; rfl⟩

/-- The search keeps the sample just taken (R101). -/
theorem rtSearch_prev (w x : Nib) (r : RtState) : (rtSearch (rtWindow w x) r).prev = r.prev := by
  rcases rtSearch_cases w x r with ⟨-, h⟩ | ⟨-, -, h⟩ | ⟨-, -, h⟩ <;> rw [h]
  rfl

/-- A first half keeps the sample just taken. -/
theorem rtFirstHalf_prev (d : Bool) (r : RtState) (c : Ctl) : (rtFirstHalf d r c).unit.prev = r.prev := by
  rcases rtFirstHalf_cases d r c with ⟨-, -, -, h⟩ | ⟨-, -, -, h⟩ | ⟨-, h⟩ <;> rw [h] <;> rfl

/-- The end of a group keeps the sample just taken. -/
theorem rtGroupEnd_prev (n : Nat) (r : RtState) (c : Ctl) : (rtGroupEnd n r c).unit.prev = r.prev := by
  rcases rtGroupEnd_cases n r c with ⟨-, h⟩ | ⟨-, -, h⟩ | ⟨-, -, -, h⟩ | ⟨-, -, -, h⟩ <;> rw [h]
  · rfl
  · rcases rtSofGroupEnd_cases { r with slot := 0#9 } c with ⟨-, h⟩ | ⟨-, h⟩ | ⟨-, -, h⟩ <;> rw [h] <;> rfl
  · rcases rtPairGroupEnd_cases n { r with slot := 0#9 } c with ⟨-, h⟩ | ⟨-, -, -, h⟩ | ⟨-, -, h⟩ <;> rw [h] <;> rfl
  · rcases rtByteGroupEnd_cases n { r with slot := 0#9 } c with ⟨-, h⟩ | ⟨-, -, h⟩ <;> rw [h] <;> rfl

/-- Every feed keeps its sample in `RT.prev` (R101). -/
theorem rtFeed_prev (n : Nat) (x : Nib) (r : RtState) (c : Ctl) : (rtFeed n x r c).unit.prev = x := by
  rcases rtFeed_cases n x r c with ⟨-, h⟩ | ⟨-, -, h⟩ | ⟨-, -, h⟩ <;> rw [h]
  · exact rtSearch_prev ..
  · exact rtFirstHalf_prev ..
  · rcases rtSecondHalf_cases n (droppedAt (rtWindow r.prev x) r.p.toNat) { r with prev := x, half := false } c with
      ⟨-, -, h⟩ | ⟨-, h⟩ <;> rw [h]
    · rfl
    · exact rtGroupEnd_prev ..

/-- Settles O22: the feed replaces the decoder, and latching an R→T frame writes that direction's fields alone. -/
theorem rtFeedFrame : Obligations.RtFeedFrame := by
  unfold Obligations.RtFeedFrame
  intro s x
  refine ⟨_, exec_rtFeed x s, rtFeed_prev .., rfl, ?_⟩
  rcases rtFeed_ctl_cases s.params.maxFrameBytes x s.rt s.ctl with h | ⟨f, h⟩ <;> simp [h]

/-- Settles O34: the feed replaces the decoder, and latching a T→R frame writes that direction's fields alone. -/
theorem trFeedFrame : Obligations.TrFeedFrame := by
  unfold Obligations.TrFeedFrame
  intro s x
  refine ⟨_, exec_trFeed x s, rfl, ?_⟩
  rcases trFeed_ctl_cases s.params.maxFrameBytes x s.tr s.ctl with h | ⟨f, h⟩ <;> simp [h]

/-! ## A feed does the same to every control unit -/

/-- A procedure that does not read the control unit: it returns CONTINUE and leaves every control unit as it was,
or it returns COMPLETED and latches the same frame in each. -/
def LatchesAlike {σ : Type} (latch : Frame → Ctl → Ctl) (proc : Ctl → FeedResult σ) : Prop :=
  (∃ u, ∀ c, proc c = continueWith u c) ∨ ∃ u f, ∀ c, proc c = { unit := u, ctl := latch f c, completed := true }

/-- `return CONTINUE`. -/
theorem LatchesAlike.continues {σ : Type} {latch : Frame → Ctl → Ctl} (u : σ) :
    LatchesAlike latch (continueWith u) :=
  .inl ⟨u, fun _ => rfl⟩

/-- A choice that does not depend on the control unit. -/
theorem LatchesAlike.ite {σ : Type} {latch : Frame → Ctl → Ctl} {q : Prop} [Decidable q] {f g : Ctl → FeedResult σ}
    (hf : LatchesAlike latch f) (hg : LatchesAlike latch g) : LatchesAlike latch fun c => if q then f c else g c := by
  by_cases hq : q
  · simpa only [if_pos hq] using hf
  · simpa only [if_neg hq] using hg

/-- An R→T completion latches the frame of its decoder (R115). -/
theorem rtComplete_latchesAlike (r : RtState) : LatchesAlike Ctl.latchRt (rtComplete r) :=
  .inr ⟨_, _, fun _ => rfl⟩

/-- A T→R completion latches the frame it is given (R166). -/
theorem trComplete_latchesAlike (bytes : List Byte) (tb : BitVec 3) (t : TrState) :
    LatchesAlike Ctl.latchTr (trComplete bytes tb t) :=
  .inr ⟨_, _, fun _ => rfl⟩

theorem rtFirstHalf_latchesAlike (d : Bool) (r : RtState) : LatchesAlike Ctl.latchRt (rtFirstHalf d r) :=
  .ite (.continues _) <| .ite (.ite (rtComplete_latchesAlike r) (.continues _)) <| .ite (.continues _) (.continues _)

theorem rtSofGroupEnd_latchesAlike (r : RtState) : LatchesAlike Ctl.latchRt (rtSofGroupEnd r) :=
  .ite (.continues _) <| .ite (.continues _) (.continues _)

theorem rtPairGroupEnd_latchesAlike (n : Nat) (r : RtState) : LatchesAlike Ctl.latchRt (rtPairGroupEnd n r) := by
  refine .ite (.continues _) <| .ite ?_ (.continues _)
  split <;> exact .continues _

theorem rtByteGroupEnd_latchesAlike (n : Nat) (r : RtState) : LatchesAlike Ctl.latchRt (rtByteGroupEnd n r) :=
  .ite (.continues _) (.continues _)

theorem rtGroupEnd_latchesAlike (n : Nat) (r : RtState) : LatchesAlike Ctl.latchRt (rtGroupEnd n r) := by
  refine .ite (.continues _) ?_
  cases r.phase <;> cases r.mode
  · exact rtSofGroupEnd_latchesAlike _
  · exact rtSofGroupEnd_latchesAlike _
  · exact rtSofGroupEnd_latchesAlike _
  · exact rtSofGroupEnd_latchesAlike _
  · exact rtPairGroupEnd_latchesAlike ..
  · exact rtByteGroupEnd_latchesAlike ..

theorem rtSecondHalf_latchesAlike (n : Nat) (d : Bool) (r : RtState) : LatchesAlike Ctl.latchRt (rtSecondHalf n d r) :=
  .ite (.ite (.continues _) (rtGroupEnd_latchesAlike ..)) (rtGroupEnd_latchesAlike ..)

/-- The R→T decoder does not read the control unit (R53). -/
theorem rtFeed_latchesAlike (n : Nat) (x : Nib) (r : RtState) : LatchesAlike Ctl.latchRt (rtFeed n x r) :=
  .ite (.continues _) <| .ite (rtSecondHalf_latchesAlike ..) (rtFirstHalf_latchesAlike ..)

theorem trSymbol_latchesAlike (n : Nat) (v : Bool) (t : TrState) : LatchesAlike Ctl.latchTr (trSymbol n v t) := by
  refine .ite ?_ (.continues _)
  split <;> exact .continues _

theorem trDataPeriod_latchesAlike (n : Nat) (t : TrState) : LatchesAlike Ctl.latchTr (trDataPeriod n t) := by
  unfold trDataPeriod
  cases t.sub with
  | none | both => exact .continues _
  | first | second => exact trSymbol_latchesAlike ..

theorem trEndOfFrame_latchesAlike (n : Nat) (t : TrState) : LatchesAlike Ctl.latchTr (trEndOfFrame n t) := by
  refine .ite (.continues _) <| .ite ?_ (trComplete_latchesAlike ..)
  split
  · exact .continues _
  · exact trComplete_latchesAlike ..

theorem trPhaseStep_latchesAlike (n : Nat) (t : TrState) : LatchesAlike Ctl.latchTr (trPhaseStep n t) := by
  unfold trPhaseStep
  cases t.phase with
  | unsync | errw => exact .continues _
  | soc1 | soc2 | soc3 => exact .ite (.continues _) (.continues _)
  | sofc | data => exact trDataPeriod_latchesAlike ..
  | eoff => exact trEndOfFrame_latchesAlike ..

theorem trSecondHalf_latchesAlike (n : Nat) (m : Bool) (t : TrState) : LatchesAlike Ctl.latchTr (trSecondHalf n m t) :=
  .ite (.ite (trComplete_latchesAlike ..) (.continues _)) (trPhaseStep_latchesAlike ..)

/-- The T→R decoder does not read the control unit (R53). -/
theorem trFeed_latchesAlike (n : Nat) (x : Nib) (t : TrState) : LatchesAlike Ctl.latchTr (trFeed n x t) :=
  .ite (.continues _) <| .ite (.continues _) <| .ite (trSecondHalf_latchesAlike ..) (.continues _)

/-- Latching an R→T frame and latching a T→R frame write different fields (R44 to R46). -/
theorem latchRt_latchTr (f g : Frame) (c : Ctl) : (c.latchTr g).latchRt f = (c.latchRt f).latchTr g := rfl

/-- Settles O37: each feed does to its decoder, and hands over, what it would on the other order's control unit;
and the two latches are different fields. -/
theorem feedsOfOneTickCommute : Obligations.FeedsOfOneTickCommute := by
  unfold Obligations.FeedsOfOneTickCommute
  intro s x y
  have hrt := rtFeed_latchesAlike s.params.maxFrameBytes x s.rt
  have htr := trFeed_latchesAlike s.params.maxFrameBytes y s.tr
  refine ⟨_, _, (rtFeed s.params.maxFrameBytes x s.rt s.ctl).completed,
    (trFeed s.params.maxFrameBytes y s.tr s.ctl).completed, rfl, rfl, ?_⟩
  rcases hrt with ⟨r, hrt⟩ | ⟨r, f, hrt⟩ <;> rcases htr with ⟨t, htr⟩ | ⟨t, g, htr⟩ <;> simp [hrt, htr, latchRt_latchTr]

end Sys2Proof.Machine
end

section
/-!
PROOFS. The stored flags and the latches (10_state.md R44 to R50, 00_scope.md R11). `CtlChange` says once what each
command can write to the control unit; which flag belongs to which command, and that CRC_OK stays clear without the
CRC unit (30_encoding.md R87), are read off it.
-/

namespace Sys2Proof.Machine

/-! ## Parity -/

/-- The set bits of a byte, counted place by place (R6). -/
theorem popcount_eq_countP (b : Byte) : popcount b = (List.range 8).countP fun i => b.getLsbD i := by
  simp only [popcount, List.range_succ, List.range_zero, List.countP_append, List.countP_singleton, List.countP_nil,
    Bool.toNat, ← BitVec.getLsbD_eq_getElem]
  simp only [Nat.zero_add, Bool.cond_eq_ite]

/-- A parity bit is 1 exactly where the count of set bits is even (R11). -/
theorem parityBit_toNat (b : Byte) : (parityBit b).toNat = 1 - popcount b % 2 := by
  rcases Nat.mod_two_eq_zero_or_one (popcount b) with h | h <;> simp [parityBit, h]

/-- Settles O52: the parity bit makes up for an even count, and parity is taken byte by byte. -/
theorem parityIsOddPerByte : Obligations.ParityIsOddPerByte := by
  unfold Obligations.ParityIsOddPerByte
  refine ⟨fun b => ?_, fun bytes => ⟨parity_length bytes, fun i hi => ?_⟩⟩
  · rw [← popcount_eq_countP, parityBit_toNat]
    omega
  · rw [parity, List.getElem?_map, List.getElem?_eq_getElem hi, Option.map_some]

/-! ## What each command can write to the control unit -/

/-- The control units a command can leave, from the control unit `c` (R46, R50). -/
inductive CtlChange (p : Params) (c : Ctl) : Instr → Ctl → Prop
  | keeps (i : Instr) : CtlChange p c i c
  | rtFeed (x : Nib) (f : Frame) : CtlChange p c (.rtFeed x) (c.latchRt f)
  | trFeed (x : Nib) (f : Frame) : CtlChange p c (.trFeed x) (c.latchTr f)
  | rtRead : CtlChange p c .rtRead c.clearRt
  | trRead : CtlChange p c .trRead c.clearTr
  | blkReset : CtlChange p c .blkReset ctlBlockReset
  | crcCheckL (l : List Byte) (ok : Bool) (present : p.hasCrc = true) : CtlChange p c (.crcCheckL l) (c.setCrcOk ok)
  | crcCheckRt (ok : Bool) (present : p.hasCrc = true) : CtlChange p c .crcCheckRt (c.setCrcOk ok)
  | crcCheckTr (ok : Bool) (present : p.hasCrc = true) : CtlChange p c .crcCheckTr (c.setCrcOk ok)

/-- Behind the list guard a command writes what it would without it, or is refused. -/
theorem CtlChange.whenListFits {p : Params} {i : Instr} {l : List Byte} {s go : State}
    (hgo : CtlChange p s.ctl i go.ctl) : CtlChange p s.ctl i (s.whenListFits l go).ctl := by
  rcases State.whenListFits_cases l s go with ⟨-, h⟩ | ⟨-, h⟩ <;> rw [h]
  · exact hgo
  · exact .keeps i

/-- Behind the CRC guard a command writes what it would with the unit present, or is refused. -/
theorem CtlChange.whenCrc {p : Params} {i : Instr} {s go : State}
    (hgo : s.params.hasCrc = true → CtlChange p s.ctl i go.ctl) : CtlChange p s.ctl i (s.whenCrc go).ctl := by
  rcases State.whenCrc_cases s go with ⟨hpresent, h⟩ | ⟨-, h⟩ <;> rw [h]
  · exact hgo hpresent
  · exact .keeps i

/-- No command writes anything else to the control unit: a refused one and the encoder's write nothing, and the
CRC checks pass their guard before they write CRC_OK. -/
theorem exec_ctlChange {i : Instr} {s t : State} (h : exec i s = .next t) : CtlChange s.params s.ctl i t.ctl := by
  cases i <;> obtain rfl := Host.Outcome.next.inj h
  case rtFeed x =>
    rcases rtFeed_ctl_cases s.params.maxFrameBytes x s.rt s.ctl with hc | ⟨f, hc⟩ <;> rw [State.takeRt_ctl, hc]
    · exact .keeps _
    · exact .rtFeed x f
  case trFeed x =>
    rcases trFeed_ctl_cases s.params.maxFrameBytes x s.tr s.ctl with hc | ⟨f, hc⟩ <;> rw [State.takeTr_ctl, hc]
    · exact .keeps _
    · exact .trFeed x f
  case rtReset | trReset | encTrSof | statusRead => exact .keeps _
  case rtRead => exact .rtRead
  case trRead => exact .trRead
  case blkReset => exact .blkReset
  case encRt | encTr => exact .whenListFits (.keeps _)
  case crcCompute => exact .whenCrc fun _ => .whenListFits (.keeps _)
  case crcCheckL l => exact .whenCrc fun hpresent => .whenListFits (.crcCheckL l _ hpresent)
  case crcCheckRt => exact .whenCrc fun hpresent => .crcCheckRt _ hpresent
  case crcCheckTr => exact .whenCrc fun hpresent => .crcCheckTr _ hpresent

/-- Settles O53: the commands that write a flag or a latch, one change after the other. -/
theorem eachFlagIsWrittenOnlyByItsCommands : Obligations.EachFlagIsWrittenOnlyByItsCommands := by
  unfold Obligations.EachFlagIsWrittenOnlyByItsCommands
  intro i s t h
  have hchange := exec_ctlChange h
  generalize s.ctl = c at *
  generalize t.ctl = c' at *
  cases hchange with
  | keeps => exact ⟨fun _ _ _ => ⟨rfl, rfl, rfl⟩, fun _ _ _ => ⟨rfl, rfl, rfl⟩, fun _ _ _ _ => rfl⟩
  | rtFeed x f => exact ⟨fun hne => absurd rfl (hne x), fun _ _ _ => ⟨rfl, rfl, rfl⟩, fun _ _ _ _ => rfl⟩
  | trFeed x f => exact ⟨fun _ _ _ => ⟨rfl, rfl, rfl⟩, fun hne => absurd rfl (hne x), fun _ _ _ _ => rfl⟩
  | rtRead => exact ⟨fun _ hne => absurd rfl hne, fun _ _ _ => ⟨rfl, rfl, rfl⟩, fun _ _ _ _ => rfl⟩
  | trRead => exact ⟨fun _ _ _ => ⟨rfl, rfl, rfl⟩, fun _ hne => absurd rfl hne, fun _ _ _ _ => rfl⟩
  | blkReset =>
    exact ⟨fun _ _ hne => absurd rfl hne, fun _ _ hne => absurd rfl hne, fun _ _ _ hne => absurd rfl hne⟩
  | crcCheckL l ok =>
    exact ⟨fun _ _ _ => ⟨rfl, rfl, rfl⟩, fun _ _ _ => ⟨rfl, rfl, rfl⟩, fun hne => absurd rfl (hne l)⟩
  | crcCheckRt ok =>
    exact ⟨fun _ _ _ => ⟨rfl, rfl, rfl⟩, fun _ _ _ => ⟨rfl, rfl, rfl⟩, fun _ hne => absurd rfl hne⟩
  | crcCheckTr ok =>
    exact ⟨fun _ _ _ => ⟨rfl, rfl, rfl⟩, fun _ _ _ => ⟨rfl, rfl, rfl⟩, fun _ _ hne => absurd rfl hne⟩

/-! ## Without the CRC unit -/

/-- No command sets CRC_OK where there is no CRC unit: the checks that write it are refused there (R87). -/
theorem CtlChange.keeps_crcOk_clear {p : Params} {i : Instr} {c c' : Ctl} (h : CtlChange p c i c')
    (habsent : p.hasCrc = false) (hclear : c.crcOk = false) : c'.crcOk = false := by
  cases h with
  | keeps | rtFeed | trFeed | rtRead | trRead => exact hclear
  | blkReset => rfl
  | crcCheckL _ _ hpresent | crcCheckRt _ hpresent | crcCheckTr _ hpresent =>
    exact absurd (habsent.symm.trans hpresent) (by decide)

/-- No step writes a parameter (R297). -/
theorem step_keeps_params {s t : State} (hstep : step s = .next t) : t.params = s.params :=
  step_keeps (P := fun u => u.params = s.params) (fun _ _ h => h) (fun _ _ h => h)
    (fun _ _ _ hrun h => (exec_frame hrun).1.trans h) hstep rfl

/-- Settles O6: the refusal of the four bytes, the parameters, and CRC_OK, which no command can set. -/
theorem withoutCrcUnitCommandsAreRefusedAndCrcOkStaysClear :
    Obligations.WithoutCrcUnitCommandsAreRefusedAndCrcOkStaysClear := by
  unfold Obligations.WithoutCrcUnitCommandsAreRefusedAndCrcOkStaysClear
  refine ⟨fun p c => decode_eq_noCrc, fun s c rest habsent hstream hbyte =>
    step_of_decode_error hstream (decode_eq_noCrc habsent hbyte), fun s t => step_keeps_params,
    fun s t habsent hclear hstep => ?_⟩
  have hkeeps := step_keeps (P := fun u => u.params.hasCrc = false ∧ u.ctl.crcOk = false) (fun _ _ h => h)
    (fun _ _ h => h) (fun i u v hrun ⟨ha, hc⟩ =>
      ⟨(exec_frame hrun).1 ▸ ha, (exec_ctlChange hrun).keeps_crcOk_clear ha hc⟩) hstep ⟨habsent, hclear⟩
  exact hkeeps.2

end Sys2Proof.Machine
end

section
/-!
PROOFS. The legal states of the machine (10_state.md R24 to R46, R52). Each procedure of a decoder is shown to leave a
legal decoder, going through the law that says everything the procedure can do; the control unit stays legal because a
completed frame is. The invariant is then put together unit by unit over the commands, and follows for every run from
power-on reset by one induction on the number of steps.
-/

namespace Sys2Proof.Machine

/-! ## The R→T decoder -/

/-- A silent reset leaves a legal decoder, whatever was assembled (R116). -/
theorem RtState.legal_goUnsync {n : Nat} {r : RtState} (hp : 3 ≤ r.p.toNat) : (r.goUnsync none).Legal n := by
  refine ⟨?high, hp, ?slot, ?drop, .inl rfl, ?buf, fun _ => ⟨rfl, rfl, rfl, rfl, rfl, rfl, rfl⟩, nofun, ?sync, nofun⟩
  case high | slot | drop | buf => simp
  case sync => exact fun hsync => absurd rfl hsync

/-- The position a legal decoder measures is one of 3 to 7 (R27). -/
theorem RtState.Legal.three_le_p {n : Nat} {r : RtState} (h : r.Legal n) : 3 ≤ r.p.toNat := h.2.1

/-- A legal synchronized decoder stays legal when a feed takes its sample and counts the half (R101, R107). -/
theorem RtState.Legal.takeSample {n : Nat} {r : RtState} (h : r.Legal n) (hsync : r.phase ≠ .unsync) (x : Nib)
    (half : Bool) : RtState.Legal n { r with prev := x, half := half } := by
  obtain ⟨hhigh, hp, hslot, hdrop, hbits, hbuf, -, hsoc, hsynced, hmode⟩ := h
  exact ⟨hhigh, hp, hslot, hdrop, hbits, hbuf, fun hunsync => absurd hunsync hsync, hsoc, hsynced, hmode⟩

/-- A legal UNSYNC decoder stays legal with another sample and another high count up to 8 (R102, R103). -/
theorem RtState.Legal.countHigh {n : Nat} {r : RtState} (h : r.Legal n) (hunsync : r.phase = .unsync) (x : Nib)
    {high : BitVec 4} (hle : high.toNat ≤ 8) : RtState.Legal n { r with prev := x, high := high } := by
  obtain ⟨-, hp, hslot, hdrop, hbits, hbuf, hidle, hsoc, -, hmode⟩ := h
  exact ⟨hle, hp, hslot, hdrop, hbits, hbuf, hidle, hsoc, fun hsync => absurd hunsync hsync, hmode⟩

/-- The sync position is one of 3 to 7 (R27, R104). -/
theorem three_le_syncPosition (w : BitVec 8) {d : Nib} (hd : d ≠ 0#4) : 3 ≤ (syncPosition w d).toNat := by
  obtain ⟨hlt, -, -⟩ := highestSet_spec d hd
  simp only [syncPosition, BitVec.toNat_ofNat]
  split <;> omega

/-- Sync entry leaves a legal decoder (R104, R105). -/
theorem RtState.legal_syncEntry {n : Nat} {w : BitVec 8} {d : Nib} {r : RtState} (hd : d ≠ 0#4)
    (hhigh : r.high = 8#4) : (rtSyncEntry w d r).Legal n := by
  refine ⟨by simp [rtSyncEntry, hhigh], three_le_syncPosition w hd, by simp [rtSyncEntry], by simp [rtSyncEntry],
    .inl rfl, Nat.zero_le n, nofun, fun _ => ⟨rfl, rfl, rfl, rfl⟩, fun _ => ⟨hhigh, ?phase⟩, nofun⟩
  case phase => simp [rtSyncEntry, BitVec.extractLsb'_toNat]

/-- A sample that is not high throughout has a drop (R102). -/
theorem dropMask_ne_zero {prev : Nib} (hlow : prev ≠ 0xF#4) : ~~~prev ≠ 0#4 := by
  revert prev; decide

/-- The search leaves a legal decoder (R102 to R105). -/
theorem RtState.Legal.search {n : Nat} {r : RtState} (h : r.Legal n) (hunsync : r.phase = .unsync) (x : Nib) :
    (rtSearch (rtWindow r.prev x) { r with prev := x }).Legal n := by
  have ⟨hhigh, _⟩ := h
  rcases rtSearch_cases r.prev x { r with prev := x } with ⟨-, hs⟩ | ⟨-, -, hs⟩ | ⟨hlow, hcount, hs⟩ <;> rw [hs]
  · refine h.countHigh hunsync x ?_
    rw [BitVec.toNat_ofNat]
    omega
  · exact h.countHigh hunsync x (by simp)
  · exact RtState.legal_syncEntry (dropMask_ne_zero hlow) (BitVec.eq_of_toNat_eq (Nat.le_antisymm hhigh hcount))

/-- A first half leaves a legal decoder (R108). -/
theorem RtState.Legal.firstHalf {n : Nat} {r : RtState} (h : r.Legal n) (d : Bool) (c : Ctl) :
    (rtFirstHalf d r c).unit.Legal n := by
  rcases rtFirstHalf_cases d r c with ⟨-, -, -, hf⟩ | ⟨-, -, -, hf⟩ | ⟨-, hf⟩ <;> rw [hf]
  · exact RtState.legal_goUnsync h.three_le_p
  · exact RtState.legal_goUnsync h.three_le_p
  · exact h

/-- The end of the SOF group leaves a legal decoder (R111). -/
theorem RtState.Legal.sofGroupEnd {n : Nat} {r : RtState} (h : RtState.Legal n { r with slot := 0#9, drop := 0#9 })
    (hphase : r.phase = .soc) (c : Ctl) : (rtSofGroupEnd { r with slot := 0#9 } c).unit.Legal n := by
  obtain ⟨hhigh, hp, -, hdrop, hbits, hbuf, -, hsoc, hsynced, -⟩ := h
  have hsync : r.phase ≠ .unsync := by simp [hphase]
  obtain ⟨-, hsr, hbits0, -⟩ := hsoc hphase
  rcases rtSofGroupEnd_cases { r with slot := 0#9 } c with ⟨-, hg⟩ | ⟨-, hg⟩ | ⟨-, -, hg⟩ <;> rw [hg]
  · exact ⟨hhigh, hp, by simp, hdrop, hbits, hbuf, nofun, nofun, fun _ => hsynced hsync, fun _ => ⟨hbits0, hsr⟩⟩
  · exact ⟨hhigh, hp, by simp, hdrop, hbits, hbuf, nofun, nofun, fun _ => hsynced hsync, nofun⟩
  · exact RtState.legal_goUnsync hp

/-- Two more bits of a byte that is not yet complete (R33). -/
theorem bits_add_two {bits : BitVec 3} (hbits : bits = 0#3 ∨ bits = 2#3 ∨ bits = 4#3 ∨ bits = 6#3)
    (hnotLast : bits.toNat ≠ 6) :
    BitVec.ofNat 3 (bits.toNat + 2) = 0#3 ∨ BitVec.ofNat 3 (bits.toNat + 2) = 2#3
      ∨ BitVec.ofNat 3 (bits.toNat + 2) = 4#3 ∨ BitVec.ofNat 3 (bits.toNat + 2) = 6#3 := by
  rcases hbits with rfl | rfl | rfl | rfl
  · exact .inr (.inl rfl)
  · exact .inr (.inr (.inl rfl))
  · exact .inr (.inr (.inr rfl))
  · exact absurd rfl hnotLast

/-- The end of a OneOfFour data group leaves a legal decoder (R112, R114). -/
theorem RtState.Legal.pairGroupEnd {n : Nat} {r : RtState} (h : RtState.Legal n { r with slot := 0#9, drop := 0#9 })
    (hphase : r.phase = .recv) (hfour : r.mode = .oneOfFour) (c : Ctl) :
    (rtPairGroupEnd n { r with slot := 0#9 } c).unit.Legal n := by
  obtain ⟨hhigh, hp, hslot, hdrop, hbits, hbuf, -, -, hsynced, -⟩ := h
  have hidle : r.phase ≠ .unsync := by simp [hphase]
  have hsoc : r.phase ≠ .soc := by simp [hphase]
  have hmode : r.mode ≠ .oneOfTwoFiveSix := by simp [hfour]
  rcases rtPairGroupEnd_cases n { r with slot := 0#9 } c with ⟨-, hg⟩ | ⟨-, -, hroom, hg⟩ | ⟨-, hnotLast, hg⟩ <;>
    rw [hg]
  · exact RtState.legal_goUnsync hp
  · refine ⟨hhigh, hp, hslot, hdrop, .inl rfl, ?_, fun h => absurd h hidle, fun h => absurd h hsoc, hsynced,
      fun h => absurd h hmode⟩
    simpa using Nat.lt_of_le_of_ne hbuf hroom
  · exact ⟨hhigh, hp, hslot, hdrop, bits_add_two hbits hnotLast, hbuf, fun h => absurd h hidle, fun h => absurd h hsoc,
      hsynced, fun h => absurd h hmode⟩

/-- The end of a OneOfTwoFiveSix data group leaves a legal decoder (R113, R114). -/
theorem RtState.Legal.byteGroupEnd {n : Nat} {r : RtState} (h : RtState.Legal n { r with slot := 0#9, drop := 0#9 })
    (hphase : r.phase = .recv) (c : Ctl) : (rtByteGroupEnd n { r with slot := 0#9 } c).unit.Legal n := by
  obtain ⟨hhigh, hp, hslot, hdrop, hbits, hbuf, -, -, hsynced, hmode⟩ := h
  have hidle : r.phase ≠ .unsync := by simp [hphase]
  have hsoc : r.phase ≠ .soc := by simp [hphase]
  rcases rtByteGroupEnd_cases n { r with slot := 0#9 } c with ⟨-, hg⟩ | ⟨-, hroom, hg⟩ <;> rw [hg]
  · exact RtState.legal_goUnsync hp
  · refine ⟨hhigh, hp, hslot, hdrop, hbits, ?_, fun h => absurd h hidle, fun h => absurd h hsoc, hsynced, hmode⟩
    simpa using Nat.lt_of_le_of_ne hbuf hroom

/-- A legal synchronized decoder stays legal when its group is closed (R110). -/
theorem RtState.Legal.closed {n : Nat} {r : RtState} (h : r.Legal n) (hsync : r.phase ≠ .unsync) :
    RtState.Legal n { r with slot := 0#9, drop := 0#9 } := by
  obtain ⟨hhigh, hp, -, -, hbits, hbuf, -, hsoc, hsynced, hmode⟩ := h
  exact ⟨hhigh, hp, by dsimp only; split <;> simp, fun h => absurd rfl h, hbits, hbuf, fun h => absurd h hsync, hsoc,
    hsynced, hmode⟩

/-- A legal synchronized decoder stays legal when a slot short of the group's end is counted (R109). -/
theorem RtState.Legal.slotCounted {n : Nat} {r : RtState} (h : r.Legal n) (hsync : r.phase ≠ .unsync) (d : Bool)
    (hshort : (r.slot + 1#9).toNat < r.mode.slots) : (slotCounted d r).Legal n := by
  obtain ⟨hhigh, hp, hslot, hdrop, hbits, hbuf, -, hsoc, hsynced, hmode⟩ := h
  rw [RtMode.slots_eq_ite] at hshort
  have hnext : (r.slot + 1#9).toNat = r.slot.toNat + 1 := by
    rw [BitVec.toNat_add]
    have : r.slot.toNat < 256 := by split at hslot <;> omega
    simp only [BitVec.toNat_ofNat]
    omega
  refine ⟨hhigh, hp, hshort, fun hne => ?_, hbits, hbuf, fun h => absurd h hsync, hsoc, hsynced, hmode⟩
  cases d with
  | true => exact Nat.le_refl _
  | false =>
    have hle : r.drop.toNat ≤ r.slot.toNat := hdrop hne
    exact hle.trans (hnext ▸ Nat.le_succ _)

/-- A second half leaves a legal decoder (R109, R110). -/
theorem RtState.Legal.secondHalf {n : Nat} {r : RtState} (h : r.Legal n) (hsync : r.phase ≠ .unsync) (d : Bool)
    (c : Ctl) : (rtSecondHalf n d r c).unit.Legal n := by
  rcases rtSecondHalf_cases n d r c with ⟨-, -, hs⟩ | ⟨-, hs⟩ <;> rw [hs]
  · exact RtState.legal_goUnsync h.three_le_p
  · rcases rtGroupEnd_cases n (Machine.slotCounted d r) c with
      ⟨hshort, hg⟩ | ⟨-, hphase, hg⟩ | ⟨-, hphase, hmode, hg⟩ | ⟨-, hphase, -, hg⟩ <;> rw [hg]
    · exact h.slotCounted hsync d hshort
    · have hsoc : r.phase = .soc := by
        by_contra hne
        exact hphase (RtPhase.eq_recv_of_ne hsync hne)
      exact (h.closed hsync).sofGroupEnd (r := Machine.slotCounted d r) hsoc c
    · exact (h.closed hsync).pairGroupEnd (r := Machine.slotCounted d r) hphase hmode c
    · exact (h.closed hsync).byteGroupEnd (r := Machine.slotCounted d r) hphase c

/-- Every feed of the R→T decoder leaves a legal decoder (R120). -/
theorem RtState.Legal.feed {n : Nat} {r : RtState} (h : r.Legal n) (x : Nib) (c : Ctl) :
    (rtFeed n x r c).unit.Legal n := by
  rcases rtFeed_cases n x r c with ⟨hunsync, hf⟩ | ⟨hsync, -, hf⟩ | ⟨hsync, -, hf⟩ <;> rw [hf]
  · exact h.search hunsync x
  · exact (h.takeSample hsync x true).firstHalf _ c
  · exact (h.takeSample hsync x false).secondHalf hsync _ c

/-- The power-on values of the R→T decoder are legal (R290). -/
theorem RtState.legal_por (n : Nat) : RtState.por.Legal n := 
  RtState.legal_goUnsync (r := RtState.por) (by decide)

/-- Every command leaves a legal R→T decoder. -/
theorem exec_keeps_rtLegal {i : Instr} {s t : State} (h : exec i s = .next t) (hs : s.rt.Legal s.params.maxFrameBytes) :
    t.rt.Legal s.params.maxFrameBytes := by
  cases htouch : touchesRt i with
  | false => rwa [(exec_keeps_untouched h).1 htouch]
  | true =>
    cases i with
    | rtFeed x =>
      obtain rfl := Host.Outcome.next.inj h
      exact hs.feed x s.ctl
    | rtReset =>
      obtain rfl := Host.Outcome.next.inj h
      exact RtState.legal_goUnsync hs.three_le_p
    | rtRead | statusRead =>
      obtain rfl := Host.Outcome.next.inj h
      exact hs
    | blkReset =>
      obtain rfl := Host.Outcome.next.inj h
      exact RtState.legal_por _
    | trFeed | trReset | trRead | encRt | encTr | encTrSof | crcCompute | crcCheckL | crcCheckRt | crcCheckTr =>
      cases htouch

/-! ## The T→R decoder -/

/-- A silent reset leaves a legal decoder, whatever was assembled (R168). -/
theorem TrState.legal_goUnsync (n : Nat) (t : TrState) : (t.goUnsync none).Legal n :=
  ⟨Nat.zero_le 8, Nat.zero_le n, fun _ => rfl, fun _ => ⟨rfl, rfl, rfl, rfl⟩, nofun, nofun, fun _ => ⟨rfl, rfl⟩,
    fun _ => rfl, nofun, nofun⟩

/-- What a legal decoder holds at the end of a bit period, before the symbol of the period is acted on: what is
assembled is in its ranges, and nothing is assembled before the first data symbol (R41 to R43). -/
structure TrState.PeriodLegal (n : Nat) (t : TrState) : Prop where
  bc_le : t.bc.toNat ≤ 8
  buf_le : t.buf.length ≤ n
  warm : ¬ t.warm.toNat < 3
  sync : t.phase ≠ .unsync
  half : t.half = false
  empty : t.phase = .soc1 ∨ t.phase = .soc2 ∨ t.phase = .soc3 ∨ t.phase = .sofc ∨ t.phase = .errw →
    t.bc = 0#4 ∧ t.buf = []
  sr : t.bc = 0#4 → t.sr = 0#8
  data : t.phase = .data → 1 ≤ t.bc.toNat

/-- A second half of a legal decoder ends its bit period so (R157). -/
theorem TrState.Legal.period {n : Nat} {t : TrState} (h : t.Legal n) (hwarm : ¬ t.warm.toNat < 3)
    (hsync : t.phase ≠ .unsync) (x : Nib) (m : Bool) : (halfCombined m (t.shiftWindow x)).PeriodLegal n := by
  obtain ⟨hbc, hbuf, -, -, -, -, hempty, hsr, hdata, -⟩ := h
  exact ⟨hbc, hbuf, hwarm, hsync, rfl, hempty, hsr, hdata⟩

/-- Past the first two SOF stages, what a bit period leaves is legal as it stands. -/
theorem TrState.PeriodLegal.legal {n : Nat} {t : TrState} (h : t.PeriodLegal n) (h1 : t.phase ≠ .soc1)
    (h2 : t.phase ≠ .soc2) : t.Legal n :=
  ⟨h.bc_le, h.buf_le, fun hlt => absurd hlt h.warm, fun hu => absurd hu h.sync, fun hp => absurd hp h1,
    fun hp => absurd hp h2, h.empty, h.sr, h.data, fun ht => absurd (h.half.symm.trans ht) (by decide)⟩

/-- With nothing assembled, every later phase that holds no data symbol is legal (R159 to R161, R165). -/
theorem TrState.PeriodLegal.advance {n : Nat} {t : TrState} (h : t.PeriodLegal n) (hempty : t.bc = 0#4 ∧ t.buf = [])
    {phase : TrPhase} (hphase : phase = .soc3 ∨ phase = .sofc ∨ phase = .errw) :
    TrState.Legal n { t with phase := phase } := by
  refine TrState.PeriodLegal.legal
    ⟨h.bc_le, h.buf_le, h.warm, ?sync, h.half, fun _ => hempty, h.sr, ?data⟩ ?soc1 ?soc2
  all_goals rcases hphase with rfl | rfl | rfl <;> simp

/-- The three SOF stages leave a legal decoder (R159 to R161). -/
theorem TrState.PeriodLegal.sofStage {n : Nat} {t : TrState} (h : t.PeriodLegal n)
    (hphase : t.phase = .soc1 ∨ t.phase = .soc2 ∨ t.phase = .soc3) (c : Ctl) : (trPhaseStep n t c).unit.Legal n := by
  have hempty : t.bc = 0#4 ∧ t.buf = [] := h.empty (by rcases hphase with hp | hp | hp <;> simp [hp])
  have hwait := h.advance hempty (phase := .errw) (by simp)
  rcases hphase with hp | hp | hp
  · rcases trPhaseStep_soc1_cases (n := n) (c := c) hp with ⟨-, hs⟩ | ⟨-, hs⟩ <;> rw [hs]
    · exact ⟨h.bc_le, h.buf_le, fun hlt => absurd hlt h.warm, nofun, nofun, fun _ => ⟨rfl, rfl⟩, fun _ => hempty, h.sr,
        nofun, fun _ => .inr rfl⟩
    · exact hwait
  · rcases trPhaseStep_soc2_cases (n := n) (c := c) hp with ⟨-, hs⟩ | ⟨-, hs⟩ <;> rw [hs]
    · exact h.advance hempty (by simp)
    · exact hwait
  · rcases trPhaseStep_soc3_cases (n := n) (c := c) hp with ⟨-, hs⟩ | ⟨-, hs⟩ <;> rw [hs]
    · exact h.advance hempty (by simp)
    · exact hwait

/-- One more symbol in a shift register that is not full leaves a legal decoder (R162). -/
theorem TrState.legal_shiftIn {n : Nat} {t : TrState} (hbc : t.bc.toNat < 8) (hbuf : t.buf.length ≤ n)
    (hwarm : ¬ t.warm.toNat < 3) (hhalf : t.half = false) (v : Bool) : (trShiftIn v t).Legal n := by
  have hnext : (t.bc + 1#4).toNat = t.bc.toNat + 1 := by
    rw [BitVec.toNat_add, BitVec.toNat_ofNat]
    omega
  have hpos : 1 ≤ (t.bc + 1#4).toNat := hnext ▸ Nat.le_add_left ..
  refine TrState.PeriodLegal.legal ⟨?bc, hbuf, hwarm, nofun, hhalf, ?empty, ?sr, fun _ => hpos⟩ nofun nofun
  case bc => exact hnext.trans_le hbc
  case empty => simp [trShiftIn]
  case sr => exact fun h0 : t.bc + 1#4 = 0#4 => absurd hpos (by rw [h0]; decide)

/-- A data symbol leaves a legal decoder (R162, R167). -/
theorem TrState.PeriodLegal.symbol {n : Nat} {t : TrState} (h : t.PeriodLegal n) (v : Bool) (c : Ctl) :
    (trSymbol n v t c).unit.Legal n := by
  rcases trSymbol_cases n v t c with ⟨-, -, hs⟩ | ⟨-, hroom, hs⟩ | ⟨hbc, hs⟩ <;> rw [hs]
  · exact TrState.legal_goUnsync ..
  · refine TrState.legal_shiftIn (t := { t with buf := t.buf ++ [t.sr], sr := 0#8, bc := 0#4 }) (by simp) ?_ h.warm
      h.half v
    simpa using Nat.lt_of_le_of_ne h.buf_le hroom
  · have hlt : t.bc.toNat < 8 := Nat.lt_of_le_of_ne h.bc_le fun heq => hbc (BitVec.eq_of_toNat_eq heq)
    exact TrState.legal_shiftIn hlt h.buf_le h.warm h.half v

/-- A data period leaves a legal decoder (R162, R163). -/
theorem TrState.PeriodLegal.dataPeriod {n : Nat} {t : TrState} (h : t.PeriodLegal n)
    (hphase : t.phase = .sofc ∨ t.phase = .data) (c : Ctl) : (trDataPeriod n t c).unit.Legal n := by
  unfold trDataPeriod
  cases t.sub with
  | first | second => exact h.symbol _ c
  | none => exact h.legal (by rcases hphase with hp | hp <;> simp [hp]) (by rcases hphase with hp | hp <;> simp [hp])
  | both =>
    exact TrState.PeriodLegal.legal ⟨h.bc_le, h.buf_le, h.warm, nofun, h.half, by simp, h.sr, nofun⟩ nofun nofun

/-- The end of a frame leaves a legal decoder (R164 to R166). -/
theorem TrState.PeriodLegal.endOfFrame {n : Nat} {t : TrState} (h : t.PeriodLegal n) (c : Ctl) :
    (trEndOfFrame n t c).unit.Legal n := by
  rcases trEndOfFrame_cases n t c with ⟨hbuf, hbc, he⟩ | ⟨-, -, he⟩ | ⟨-, -, he⟩ | ⟨-, -, he⟩ <;> rw [he]
  · exact h.advance ⟨hbc, hbuf⟩ (by simp)
  · exact TrState.legal_goUnsync ..
  · exact TrState.legal_goUnsync ..
  · exact TrState.legal_goUnsync ..

/-- The phase step leaves a legal decoder (R159 to R165). -/
theorem TrState.PeriodLegal.phaseStep {n : Nat} {t : TrState} (h : t.PeriodLegal n) (c : Ctl) :
    (trPhaseStep n t c).unit.Legal n := by
  cases hphase : t.phase with
  | unsync => exact absurd hphase h.sync
  | soc1 => exact h.sofStage (.inl hphase) c
  | soc2 => exact h.sofStage (.inr (.inl hphase)) c
  | soc3 => exact h.sofStage (.inr (.inr hphase)) c
  | sofc =>
    rw [trPhaseStep_data (.inl hphase)]
    exact h.dataPeriod (.inl hphase) c
  | data =>
    rw [trPhaseStep_data (.inr hphase)]
    exact h.dataPeriod (.inr hphase) c
  | eoff =>
    rw [trPhaseStep_eoff hphase]
    exact h.endOfFrame c
  | errw =>
    simp only [trPhaseStep, hphase]
    exact TrState.legal_goUnsync ..

/-- Sync entry leaves a legal decoder (R154). -/
theorem TrState.legal_syncEntry {n k : Nat} {t : TrState} (hwarm : ¬ t.warm.toNat < 3) : (trSyncEntry k t).Legal n :=
  ⟨Nat.zero_le 8, Nat.zero_le n, fun hlt => absurd hlt hwarm, nofun, fun _ => ⟨rfl, rfl⟩, nofun, fun _ => ⟨rfl, rfl⟩,
    fun _ => rfl, nofun, fun _ => .inl rfl⟩

/-- A legal UNSYNC decoder stays legal with any window and any warm-up count (R151). -/
theorem TrState.Legal.takeSample {n : Nat} {t : TrState} (h : t.Legal n) (hunsync : t.phase = .unsync) (x : Nib)
    (warm : BitVec 2) : TrState.Legal n { t.shiftWindow x with warm := warm } := by
  obtain ⟨hbc, hbuf, -, hidle, hsoc1, hsoc2, hempty, hsr, hdata, hhalf⟩ := h
  exact ⟨hbc, hbuf, fun _ => hunsync, hidle, hsoc1, hsoc2, hempty, hsr, hdata, hhalf⟩

/-- A first half leaves a legal decoder; the first two SOF stages have none (R156). -/
theorem TrState.Legal.firstHalf {n : Nat} {t : TrState} (h : t.Legal n) (hsync : t.phase ≠ .unsync)
    (hfirst : t.half = false) (x : Nib) (m : Bool) : (trFirstHalf m (t.shiftWindow x)).Legal n := by
  obtain ⟨hbc, hbuf, hwarm, -, hsoc1, hsoc2, hempty, hsr, hdata, -⟩ := h
  refine ⟨hbc, hbuf, hwarm, fun hu => absurd hu hsync, fun hp => ?_, fun hp => ?_, hempty, hsr, hdata, fun _ => ?_⟩
  · exact absurd (hfirst.symm.trans (hsoc1 hp).1) (by decide)
  · exact absurd (hfirst.symm.trans (hsoc2 hp).1) (by decide)
  · cases m <;> simp [trFirstHalf]

/-- A bit period with neither half modulated leaves a legal decoder (R158). -/
theorem trNeither_legal {n : Nat} (t : TrState) (c : Ctl) : (trNeither t c).unit.Legal n := by
  rcases trNeither_cases t c with ⟨-, hn⟩ | ⟨-, hn⟩ <;> rw [hn] <;> exact TrState.legal_goUnsync ..

/-- Every feed of the T→R decoder leaves a legal decoder (R175). -/
theorem TrState.Legal.feed {n : Nat} {t : TrState} (h : t.Legal n) (x : Nib) (c : Ctl) :
    (trFeed n x t c).unit.Legal n := by
  rcases trFeed_cases n x t c with
    ⟨hwarm, hf⟩ | ⟨hwarm, hunsync, hf⟩ | ⟨-, hsync, hhalf, hf⟩ | ⟨hwarm, hsync, -, hf⟩ <;> rw [hf]
  · have ⟨_, _, hidle, _⟩ := h
    exact h.takeSample (hidle hwarm) x _
  · rcases trSearch_cases t.w0 t.w1 t.w2 (t.shiftWindow x) with hs | ⟨-, -, hs⟩ <;> rw [hs]
    · exact h.takeSample hunsync x t.warm
    · exact TrState.legal_syncEntry hwarm
  · exact h.firstHalf hsync hhalf x _
  · rcases trSecondHalf_cases n (modulated t.w0 t.w1 t.j) (t.shiftWindow x) c with ⟨-, hs⟩ | ⟨-, hs⟩ <;> rw [hs]
    · exact trNeither_legal ..
    · exact (h.period hwarm hsync x _).phaseStep c

/-- The power-on values of the T→R decoder are legal (R290). -/
theorem TrState.legal_por (n : Nat) : TrState.por.Legal n := TrState.legal_goUnsync n TrState.por

/-- Every command leaves a legal T→R decoder. -/
theorem exec_keeps_trLegal {i : Instr} {s t : State} (h : exec i s = .next t) (hs : s.tr.Legal s.params.maxFrameBytes) :
    t.tr.Legal s.params.maxFrameBytes := by
  cases htouch : touchesTr i with
  | false => rwa [(exec_keeps_untouched h).2 htouch]
  | true =>
    cases i with
    | trFeed x =>
      obtain rfl := Host.Outcome.next.inj h
      exact hs.feed x s.ctl
    | trReset =>
      obtain rfl := Host.Outcome.next.inj h
      exact TrState.legal_goUnsync ..
    | trRead | statusRead =>
      obtain rfl := Host.Outcome.next.inj h
      exact hs
    | blkReset =>
      obtain rfl := Host.Outcome.next.inj h
      exact TrState.legal_por _
    | rtFeed | rtReset | rtRead | encRt | encTr | encTrSof | crcCompute | crcCheckL | crcCheckRt | crcCheckTr =>
      cases htouch

/-! ## The control unit -/

/-- Latching an R→T frame that fits keeps the control unit legal (R115). -/
theorem Ctl.Legal.latchRt {n : Nat} {c : Ctl} (h : c.Legal n) {r : RtState} (hbuf : r.buf.length ≤ n) :
    (c.latchRt r.frame).Legal n := by
  obtain ⟨-, -, -, hsph, htrLen, htrPar, hpartial, -, htrOvr⟩ := h
  exact ⟨rfl, hbuf, rfl, hsph, htrLen, htrPar, hpartial, fun _ => rfl, htrOvr⟩

/-- A T→R frame that may be handed over (R10): it fits, and where it is partial its last byte holds only its
received bits. -/
structure TrFrameLegal (n : Nat) (bytes : List Byte) (tb : BitVec 3) : Prop where
  fits : bytes.length ≤ n
  lastBits : tb ≠ 0#3 → bytes ≠ [] ∧ (bytes.getLastD 0#8).toNat < 2 ^ tb.toNat

/-- Completing such a frame keeps the control unit legal (R166). -/
theorem Ctl.Legal.trComplete {n : Nat} {c : Ctl} (h : c.Legal n) {bytes : List Byte} {tb : BitVec 3}
    (hframe : TrFrameLegal n bytes tb) (t : TrState) : (trComplete bytes tb t c).ctl.Legal n := by
  obtain ⟨htb, hrtLen, hrtPar, -, -, -, -, hrtOvr, -⟩ := h
  exact ⟨htb, hrtLen, hrtPar, rfl, hframe.fits, rfl, hframe.lastBits, hrtOvr, fun _ => rfl⟩

/-- The frame of a partial byte may be handed over (R10, R66). -/
theorem trFrameLegal_partial {n : Nat} {buf : List Byte} {sr : Byte} {bc : BitVec 4} (htwo : 2 ≤ bc.toNat)
    (hbc : bc.toNat ≤ 8) (hbuf : buf.length < n) :
    TrFrameLegal n (buf ++ [partialByte sr bc]) (BitVec.ofNat 3 (bc.toNat - 1)) := by
  have htb : (BitVec.ofNat 3 (bc.toNat - 1)).toNat = bc.toNat - 1 := by
    rw [BitVec.toNat_ofNat]
    omega
  refine ⟨by simpa using hbuf, fun _ => ⟨by simp, ?_⟩⟩
  rw [List.getLastD_concat, htb]
  exact partialByte_lt sr bc hbc

/-- The end of a frame keeps the control unit legal (R164 to R166). -/
theorem TrState.PeriodLegal.endOfFrame_ctl {n : Nat} {t : TrState} (h : t.PeriodLegal n) {c : Ctl} (hc : c.Legal n) :
    (trEndOfFrame n t c).ctl.Legal n := by
  rcases trEndOfFrame_cases n t c with ⟨-, -, he⟩ | ⟨-, -, he⟩ | ⟨htwo, hroom, he⟩ | ⟨-, -, he⟩ <;> rw [he]
  · exact hc
  · exact hc
  · exact hc.trComplete (trFrameLegal_partial htwo h.bc_le (Nat.lt_of_le_of_ne h.buf_le hroom)) t
  · exact hc.trComplete ⟨h.buf_le, fun hne => absurd rfl hne⟩ t

/-- A data period leaves the control unit alone (R162, R163, R169). -/
theorem trDataPeriod_ctl (n : Nat) (t : TrState) (c : Ctl) : (trDataPeriod n t c).ctl = c := by
  have hsymbol (v : Bool) : (trSymbol n v t c).ctl = c := by
    rcases trSymbol_cases n v t c with ⟨-, -, h⟩ | ⟨-, -, h⟩ | ⟨-, h⟩ <;> rw [h] <;> rfl
  unfold trDataPeriod
  cases t.sub with
  | first | second => exact hsymbol _
  | none | both => rfl

/-- The phase step keeps the control unit legal: it writes it at the end of a frame alone (R164, R169). -/
theorem TrState.PeriodLegal.phaseStep_ctl {n : Nat} {t : TrState} (h : t.PeriodLegal n) {c : Ctl} (hc : c.Legal n) :
    (trPhaseStep n t c).ctl.Legal n := by
  cases hphase : t.phase with
  | unsync => exact absurd hphase h.sync
  | soc1 => rcases trPhaseStep_soc1_cases (n := n) (c := c) hphase with ⟨-, hs⟩ | ⟨-, hs⟩ <;> rw [hs] <;> exact hc
  | soc2 => rcases trPhaseStep_soc2_cases (n := n) (c := c) hphase with ⟨-, hs⟩ | ⟨-, hs⟩ <;> rw [hs] <;> exact hc
  | soc3 => rcases trPhaseStep_soc3_cases (n := n) (c := c) hphase with ⟨-, hs⟩ | ⟨-, hs⟩ <;> rw [hs] <;> exact hc
  | sofc => rwa [trPhaseStep_data (.inl hphase), trDataPeriod_ctl]
  | data => rwa [trPhaseStep_data (.inr hphase), trDataPeriod_ctl]
  | eoff =>
    rw [trPhaseStep_eoff hphase]
    exact h.endOfFrame_ctl hc
  | errw =>
    simp only [trPhaseStep, hphase]
    exact hc

/-- Every feed of the T→R decoder keeps the control unit legal, the buffer having room for the one byte of the
acknowledgement (R158, R175). -/
theorem TrState.Legal.feed_ctl {n : Nat} {t : TrState} (h : t.Legal n) (hn : 1 ≤ n) (x : Nib) {c : Ctl}
    (hc : c.Legal n) : (trFeed n x t c).ctl.Legal n := by
  rcases trFeed_cases n x t c with ⟨-, hf⟩ | ⟨-, -, hf⟩ | ⟨-, -, -, hf⟩ | ⟨hwarm, hsync, -, hf⟩ <;> rw [hf]
  · exact hc
  · exact hc
  · exact hc
  · have hperiod := h.period hwarm hsync x (modulated t.w0 t.w1 t.j)
    rcases trSecondHalf_cases n (modulated t.w0 t.w1 t.j) (t.shiftWindow x) c with ⟨-, hs⟩ | ⟨-, hs⟩ <;> rw [hs]
    · rcases trNeither_cases (halfCombined (modulated t.w0 t.w1 t.j) (t.shiftWindow x)) c with ⟨-, hs⟩ | ⟨-, hs⟩ <;>
        rw [hs]
      · exact hc.trComplete (bytes := [0x0F#8]) ⟨hn, fun hne => absurd rfl hne⟩ _
      · exact hc
    · exact hperiod.phaseStep_ctl hc

/-- Every feed of the R→T decoder keeps the control unit legal (R115, R120). -/
theorem RtState.Legal.feed_ctl {n : Nat} {r : RtState} (h : r.Legal n) (x : Nib) {c : Ctl} (hc : c.Legal n) :
    (rtFeed n x r c).ctl.Legal n := by
  have ⟨_, _, _, _, _, hbuf, _⟩ := h
  rcases rtFeed_handsOver n x r c with ⟨-, -, -, -, hf⟩ | ⟨-, -, hf⟩ <;> rw [hf]
  · exact hc.latchRt (r := { r with prev := x, half := true }) hbuf
  · exact hc

/-- The power-on values of the control unit are legal (R290). -/
theorem Ctl.legal_por (n : Nat) : Ctl.por.Legal n :=
  ⟨rfl, Nat.zero_le n, rfl, rfl, Nat.zero_le n, rfl, fun hne => absurd rfl hne, nofun, nofun⟩

/-- Every command leaves a legal control unit: a feed by what it may hand over, any other by what it may write. -/
theorem exec_keeps_ctlLegal {i : Instr} {s t : State} (h : exec i s = .next t) (hparams : 1 ≤ s.params.maxFrameBytes)
    (hrt : s.rt.Legal s.params.maxFrameBytes) (htr : s.tr.Legal s.params.maxFrameBytes)
    (hctl : s.ctl.Legal s.params.maxFrameBytes) : t.ctl.Legal s.params.maxFrameBytes := by
  have hchange := exec_ctlChange h
  have ⟨hrtTb, hrtLen, hrtPar, htrSph, htrLen, htrPar, hpartial, hrtOvr, htrOvr⟩ := hctl
  generalize hc : t.ctl = c at *
  cases hchange with
  | keeps => exact hctl
  | rtFeed x f =>
    obtain rfl := Host.Outcome.next.inj h
    exact hc ▸ hrt.feed_ctl x hctl
  | trFeed x f =>
    obtain rfl := Host.Outcome.next.inj h
    exact hc ▸ htr.feed_ctl hparams x hctl
  | rtRead => exact ⟨hrtTb, hrtLen, hrtPar, htrSph, htrLen, htrPar, hpartial, nofun, htrOvr⟩
  | trRead => exact ⟨hrtTb, hrtLen, hrtPar, htrSph, htrLen, htrPar, hpartial, hrtOvr, nofun⟩
  | blkReset => exact Ctl.legal_por _
  | crcCheckL | crcCheckRt | crcCheckTr =>
    exact ⟨hrtTb, hrtLen, hrtPar, htrSph, htrLen, htrPar, hpartial, hrtOvr, htrOvr⟩

/-! ## The machine -/

/-- Every command keeps the machine legal. -/
theorem exec_keeps_inv {i : Instr} {s t : State} (h : exec i s = .next t) (hs : s.Inv) : t.Inv := by
  obtain ⟨hlegal, hrt, htr, hctl, hcrc⟩ := hs
  obtain ⟨hparams, -, -⟩ := exec_frame h
  unfold State.Inv
  rw [hparams]
  have ⟨hframe, _, _⟩ := hlegal
  exact ⟨hlegal, exec_keeps_rtLegal h hrt, exec_keeps_trLegal h htr,
    exec_keeps_ctlLegal h (by omega) hrt htr hctl,
    fun habsent => (exec_ctlChange h).keeps_crcOk_clear habsent (hcrc habsent)⟩

/-- Settles O54: the stream and a refusal touch no unit, and every command keeps the machine legal. -/
theorem everyStepKeepsTheMachineLegal : Obligations.EveryStepKeepsTheMachineLegal := by
  unfold Obligations.EveryStepKeepsTheMachineLegal
  intro s t hs hstep
  exact step_keeps (P := State.Inv) (fun _ _ h => h) (fun _ _ h => h) (fun _ _ _ => exec_keeps_inv) hstep hs

/-- Settles O55: the power-on values of the three units, with the hardware's parameters. -/
theorem resetIsLegal : Obligations.ResetIsLegal := by
  unfold Obligations.ResetIsLegal
  exact ⟨by decide, RtState.legal_por _, TrState.legal_por _, Ctl.legal_por _, fun _ => rfl⟩

/-- A property that every step keeps holds after every run, and every run answers: no step stops the machine. -/
theorem run_keeps {P : State → Prop} (hstep : ∀ s t, P s → step s = .next t → P t) (n : Nat) {s : State} (hs : P s) :
    ∃ t, Host.Core.run core n s = .next t ∧ P t := by
  induction n generalizing s with
  | zero => exact ⟨s, rfl, hs⟩
  | succ n ih =>
    obtain ⟨u, hu, -⟩ := everyStepAnswersAndHandsBackOneResult s
    obtain ⟨t, hrun, ht⟩ := ih (hstep s u hs hu)
    refine ⟨t, ?_, ht⟩
    have hcore : core.step s = .next u := hu
    simp only [Host.Core.run, hcore, hrun]

/-- Settles O56: the stream is no part of what makes a state legal, so the run begins in a legal state. -/
theorem everyRunFromResetStaysLegal : Obligations.EveryRunFromResetStaysLegal := by
  unfold Obligations.EveryRunFromResetStaysLegal
  exact fun cmds n => run_keeps everyStepKeepsTheMachineLegal n (s := { State.reset with stream := cmds }) resetIsLegal

end Sys2Proof.Machine
end

section
/-!
PROOFS. The byte-wise form of the CRC and the zero residue (43_crc16.md R232, R234). One shift of the register is
linear, and with a polynomial whose top bit is set only zero is shifted to zero. So the eight shifts of a byte act on
the two bytes of the register apart from each other: the high byte comes down unchanged, and the low byte becomes the
value that R232 writes out, which is a fact about 256 bytes.
-/

namespace Sys2Proof.Machine

/-! ## Shifts are linear -/

/-- One shift is linear (R231). -/
theorem crcShift_xor (poly a b : Crc) : crcShift poly (a ^^^ b) = crcShift poly a ^^^ crcShift poly b := by
  simp only [crcShift, BitVec.getElem_xor, BitVec.ushiftRight_xor_distrib]
  cases a[0] <;> cases b[0] <;> ext i hi <;> simp [Bool.xor_left_comm, Bool.xor_comm]

/-- So is any number of shifts. -/
theorem crcShifts_xor (poly : Crc) (n : Nat) (a b : Crc) :
    crcShifts poly n (a ^^^ b) = crcShifts poly n a ^^^ crcShifts poly n b := by
  induction n generalizing a b with
  | zero => rfl
  | succ n ih => rw [crcShifts, crcShift_xor, ih, crcShifts, crcShifts]

/-- A shift with no bit to shift out divides by two. -/
theorem crcShift_of_even {poly v : Crc} (hv : v[0] = false) : crcShift poly v = v >>> 1 := by
  rw [crcShift, hv, if_neg Bool.false_ne_true]

/-- Where the top bit of the polynomial is set, a bit shifted out shows at the top, so only zero is shifted to
zero. -/
theorem crcShift_eq_zero {poly v : Crc} (htop : poly.msb = true) : crcShift poly v = 0#16 ↔ v = 0#16 := by
  constructor
  · intro h
    cases hv : v[0] with
    | true =>
      rw [crcShift, if_pos hv] at h
      have hmsb := congrArg BitVec.msb h
      simp [htop] at hmsb
    | false =>
      rw [crcShift_of_even hv] at h
      have hlow : v.toNat % 2 = 0 := by
        rw [← BitVec.getLsbD_eq_getElem, BitVec.getLsbD, Nat.testBit_zero] at hv
        simpa using hv
      have hhigh : v.toNat / 2 = 0 := by
        rw [← Nat.pow_one 2, ← Nat.shiftRight_eq_div_pow, ← BitVec.toNat_ushiftRight, h]
        rfl
      exact BitVec.eq_of_toNat_eq (show v.toNat = 0 by omega)
  · rintro rfl
    simp [crcShift]

/-- So any number of shifts brings only zero to zero. -/
theorem crcShifts_eq_zero {poly v : Crc} (htop : poly.msb = true) (n : Nat) :
    crcShifts poly n v = 0#16 ↔ v = 0#16 := by
  induction n generalizing v with
  | zero => rfl
  | succ n ih => rw [crcShifts, ih, crcShift_eq_zero htop]

/-- Two register values whose sum is zero are equal. -/
theorem crc_xor_eq_zero {a b : Crc} : a ^^^ b = 0#16 ↔ a = b := by
  constructor
  · intro h
    have hcancel : a ^^^ b ^^^ b = 0#16 ^^^ b := by rw [h]
    simpa [BitVec.xor_assoc] using hcancel
  · rintro rfl
    exact BitVec.xor_self

/-- With such a polynomial, shifting loses nothing. -/
theorem crcShifts_inj {poly a b : Crc} (htop : poly.msb = true) (n : Nat) :
    crcShifts poly n a = crcShifts poly n b ↔ a = b := by
  rw [← crc_xor_eq_zero, ← crcShifts_xor, crcShifts_eq_zero htop, crc_xor_eq_zero]

/-! ## The two bytes of the register -/

/-- A value that fits comes down again unchanged, whatever the polynomial: the bits shifted out are 0. -/
theorem crcShifts_shiftLeft (poly : Crc) (n : Nat) {v : Crc} (hfits : v.toNat * 2 ^ n < 2 ^ 16) :
    crcShifts poly n (v <<< n) = v := by
  induction n with
  | zero => exact BitVec.shiftLeft_zero v
  | succ n ih =>
    rw [pow_succ, ← mul_assoc] at hfits
    have hshift : crcShift poly (v <<< (n + 1)) = v <<< n := by
      rw [crcShift_of_even (by simp)]
      apply BitVec.eq_of_toNat_eq
      rw [BitVec.toNat_ushiftRight, BitVec.toNat_shiftLeft, BitVec.toNat_shiftLeft, Nat.shiftLeft_eq, Nat.shiftLeft_eq,
        Nat.shiftRight_eq_div_pow, pow_succ, ← mul_assoc, Nat.mod_eq_of_lt hfits, Nat.mod_eq_of_lt (by omega)]
      omega
    rw [crcShifts, hshift, ih (by omega)]

/-- The high byte of a register comes down in the eight shifts of a byte. -/
theorem crcShifts_highByte (poly : Crc) (b : Byte) : crcShifts poly 8 (b.setWidth 16 <<< 8) = b.setWidth 16 := by
  refine crcShifts_shiftLeft poly 8 ?_
  have hb := b.isLt
  rw [BitVec.toNat_setWidth]
  omega

/-- A register as the sum of its two bytes (R233). -/
theorem append_eq_xor (hi lo : Byte) : (hi ++ lo : BitVec 16) = lo.setWidth 16 ^^^ (hi.setWidth 16 <<< 8) := by
  apply BitVec.eq_of_getLsbD_eq
  intro i hi16
  rw [BitVec.getLsbD_append]
  by_cases hlow : i < 8
  · simp [hlow, show i < 16 by omega]
  · have hzero : lo.getLsbD i = false := BitVec.getLsbD_of_ge _ _ (Nat.not_lt.mp hlow)
    simp [hlow, hi16, hzero]

/-- The low byte of a register written as two bytes (R233). -/
@[simp] theorem crcLow_append (hi lo : Byte) : crcLow (hi ++ lo) = lo := by
  apply BitVec.eq_of_getLsbD_eq
  intro i hi8
  rw [crcLow, BitVec.getLsbD_setWidth, BitVec.getLsbD_append]
  simp [hi8]

/-- The high byte of a register written as two bytes (R233). -/
@[simp] theorem crcHigh_append (hi lo : Byte) : crcHigh (hi ++ lo) = hi := by
  apply BitVec.eq_of_getLsbD_eq
  intro i hi8
  rw [crcHigh, BitVec.getLsbD_setWidth, BitVec.getLsbD_ushiftRight, BitVec.getLsbD_append]
  simp [hi8]

/-- A byte enters the register at its low byte, which is shifted through; the high byte comes down (R231). -/
theorem crcByte_eq (poly c : Crc) (b : Byte) :
    crcByte poly c b = (crcHigh c).setWidth 16 ^^^ crcShifts poly 8 ((b ^^^ crcLow c).setWidth 16) := by
  have hbytes : c = (crcLow c).setWidth 16 ^^^ ((crcHigh c).setWidth 16 <<< 8) := by
    rw [← append_eq_xor, crcHigh_append_crcLow]
  have hsum : c ^^^ b.setWidth 16 = ((crcHigh c).setWidth 16 <<< 8) ^^^ (b ^^^ crcLow c).setWidth 16 := by
    conv_lhs => rw [hbytes]
    rw [BitVec.setWidth_xor]
    ac_rfl
  rw [crcByte, hsum, crcShifts_xor, crcShifts_highByte]

/-! ## The byte-wise form -/

/-- The eight shifts of a low byte give the value R232 writes out. -/
theorem crcShifts_lowByte (t : Byte) : crcShifts 0x8408#16 8 (t.setWidth 16) = crcByteDirect 0#16 t := by
  revert t; decide

/-- The byte-wise form reads the byte and the low byte of the register together, and takes the high byte down. -/
theorem crcByteDirect_eq (c : Crc) (b : Byte) :
    crcByteDirect c b = (crcHigh c).setWidth 16 ^^^ crcByteDirect 0#16 (b ^^^ crcLow c) := by
  have hhigh : (crcHigh c).setWidth 16 = c >>> 8 := by
    have hc := c.isLt
    apply BitVec.eq_of_toNat_eq
    simp only [crcHigh, BitVec.toNat_setWidth, BitVec.toNat_ushiftRight, Nat.shiftRight_eq_div_pow]
    omega
  simp [crcByteDirect, hhigh, crcLow, BitVec.xor_assoc]

/-- The byte-wise form of a byte is the bit-wise one (R232). -/
theorem crcByteDirect_eq_crcByte (c : Crc) (b : Byte) : crcByteDirect c b = crcByte 0x8408#16 c b := by
  rw [crcByteDirect_eq, crcByte_eq, crcShifts_lowByte]

/-- Settles O46: the two folds agree byte by byte. -/
theorem byteWiseCrcAgrees : Obligations.ByteWiseCrcAgrees := by
  unfold Obligations.ByteWiseCrcAgrees
  intro p bs hpoly
  rw [crc16, hpoly]
  exact congrArg (fun f => bs.foldl f p.crcInit) (funext₂ crcByteDirect_eq_crcByte)

/-! ## The residue -/

/-- What the check passes: some data and the two bytes of its CRC, the low one first (R233, R234). -/
theorem crcOk_iff (p : Params) (bs : List Byte) (tb : BitVec 3) :
    crcOk p bs tb = true ↔
      (tb = 0#3 ∧ ∃ (data : List Byte) (lo hi : Byte), bs = data ++ [lo, hi] ∧ hi ++ lo = crc16 p data) := by
  rw [crcOk_eq_true]
  refine and_congr_right fun _ => ⟨fun ⟨_, hbytes⟩ => ?_, ?_⟩
  · refine ⟨bs.take (bs.length - 2), crcLow (crc16 p (bs.take (bs.length - 2))),
      crcHigh (crc16 p (bs.take (bs.length - 2))), ?_, crcHigh_append_crcLow _⟩
    rw [← crcBytes, hbytes, List.take_append_drop]
  · rintro ⟨data, lo, hi, rfl, hcrc⟩
    simp [crcBytes, ← hcrc]

/-- Where shifting loses nothing, the CRC over some data and two bytes is zero exactly where the two bytes are the
CRC of the data: before the last eight shifts the register holds the sum of what the first eight left and the last
byte, and the sum is zero where that byte is what they left. -/
theorem crc16_append_eq_zero {p : Params} (htop : p.crcPoly.msb = true) (data : List Byte) (lo hi : Byte) :
    crc16 p (data ++ [lo, hi]) = 0#16 ↔ hi ++ lo = crc16 p data := by
  calc crc16 p (data ++ [lo, hi]) = 0#16
      ↔ crcByte p.crcPoly (crcByte p.crcPoly (crc16 p data) lo) hi = 0#16 := by rw [crc16_append]; rfl
    _ ↔ crcShifts p.crcPoly 8 (crc16 p data ^^^ lo.setWidth 16) = crcShifts p.crcPoly 8 (hi.setWidth 16 <<< 8) := by
        rw [crcByte, crcShifts_eq_zero htop, crc_xor_eq_zero, crcByte, crcShifts_highByte]
    _ ↔ crc16 p data ^^^ (lo.setWidth 16 ^^^ (hi.setWidth 16 <<< 8)) = 0#16 := by
        rw [crcShifts_inj htop, ← crc_xor_eq_zero, BitVec.xor_assoc]
    _ ↔ hi ++ lo = crc16 p data := by rw [← append_eq_xor, crc_xor_eq_zero, eq_comm]

/-- Settles O47: what the check passes, and that a frame of two bytes or more is some data and two bytes. -/
theorem crcCheckIsAZeroResidue : Obligations.CrcCheckIsAZeroResidue := by
  unfold Obligations.CrcCheckIsAZeroResidue
  refine ⟨crcOk_iff, fun p bs hpoly hlength => ?_⟩
  have htop : p.crcPoly.msb = true := by rw [hpoly]; decide
  obtain ⟨lo, hi, hlast⟩ := List.length_eq_two.mp
    (show (bs.drop (bs.length - 2)).length = 2 by rw [List.length_drop]; omega)
  have hbs : bs = bs.take (bs.length - 2) ++ [lo, hi] := by rw [← hlast, List.take_append_drop]
  rw [crcOk_iff, hbs, crc16_append_eq_zero htop]
  constructor
  · rintro ⟨-, data, lo', hi', heq, hcrc⟩
    obtain ⟨rfl, hbytes⟩ := List.append_inj' heq rfl
    obtain ⟨rfl, rfl⟩ : lo = lo' ∧ hi = hi' := by simpa using hbytes
    exact hcrc
  · exact fun hcrc => ⟨rfl, _, lo, hi, rfl, hcrc⟩

end Sys2Proof.Machine
end

section
/-!
PROOFS. The R→T decoder and the encoder's frames (42_frame_encoder.md R208, R209, 70_reset_and_hazards.md R293). A feed
of the R→T decoder measures the sample of the feed before it, so `RtMeasures` speaks of the samples measured and leaves
the one still held open: waveforms put together that way can be followed piece by piece, and the run of the machine is
shifted by one sample once, in `RtMeasures.run`.
-/

namespace Sys2Proof.Machine

/-! ## Lengths -/

/-- The body of an R→T frame is 32 samples for each byte (R209). -/
theorem rtBody_length (bs : List Byte) : (bs.flatMap rtByteWave).length = 32 * bs.length := by
  induction bs with
  | nil => rfl
  | cons b bs ih => rw [List.flatMap_cons, List.length_append, rtByteWave_length, ih, List.length_cons]; omega

/-- The body of a T→R frame is 16 samples for each byte (R209). -/
theorem trBody_length (bs : List Byte) : (bs.flatMap trByteWave).length = 16 * bs.length := by
  induction bs with
  | nil => rfl
  | cons b bs ih => rw [List.flatMap_cons, List.length_append, trByteWave_length, ih, List.length_cons]; omega

/-- An R→T frame is 12 samples and its body (R209). -/
theorem rtFrameWave_length (bs : List Byte) : (rtFrameWave bs).length = 12 + 32 * bs.length := by
  simp only [rtFrameWave, List.length_append, rtBody_length, rtSof, rtEof, List.length_cons, List.length_nil]
  omega

/-- A T→R frame is 16 samples and its body (R209). -/
theorem trFrameWave_length (bs : List Byte) : (trFrameWave bs).length = 16 + 16 * bs.length := by
  simp only [trFrameWave, List.length_append, trBody_length, trSof, trEof, List.length_cons, List.length_nil]
  omega

/-- ENC_RT of a list that fits (R210). -/
theorem exec_encRt_of_le {l : List Byte} {s : State} (hfits : l.length ≤ s.params.maxListBytes) :
    exec (.encRt l) s = .next { s with results := .samples (rtFrameWave l) :: s.results } :=
  congrArg Host.Outcome.next (State.whenListFits_of_le hfits)

/-- ENC_TR of a list that fits (R211). -/
theorem exec_encTr_of_le {l : List Byte} {s : State} (hfits : l.length ≤ s.params.maxListBytes) :
    exec (.encTr l) s = .next { s with results := .samples (trFrameWave l) :: s.results } :=
  congrArg Host.Outcome.next (State.whenListFits_of_le hfits)

/-- Settles O41: the lengths of the three waveforms. -/
theorem encoderOutputLengths : Obligations.EncoderOutputLengths := by
  unfold Obligations.EncoderOutputLengths
  refine ⟨fun s l hfits => ⟨_, _, exec_encRt_of_le hfits, exec_encTr_of_le hfits, rtFrameWave_length l,
    trFrameWave_length l, fun hmax => ?_⟩, fun s => ⟨_, exec_encTrSof s, rfl⟩⟩
  rw [rtFrameWave_length, trFrameWave_length]
  omega

/-! ## Samples measured by the R→T decoder -/

/-- The decoder with `y` as the sample it holds, the one that is measured next (R23, R101). -/
abbrev RtState.holding (y : Nib) (r : RtState) : RtState := { r with prev := y }

/-- The samples `w`, measured one after the other by the decoder `r`, all return CONTINUE and leave `u`, whatever
sample either of them holds. -/
inductive RtMeasures (n : Nat) : List Nib → RtState → RtState → Prop
  | nil (r : RtState) : RtMeasures n [] r r
  | cons {y : Nib} {w : List Nib} {r u v : RtState}
      (feed : ∀ x c, rtFeed n x (r.holding y) c = continueWith (u.holding x) c)
      (rest : RtMeasures n w u v) : RtMeasures n (y :: w) r v

/-- One sample. -/
theorem RtMeasures.one {n : Nat} {y : Nib} {r u : RtState}
    (feed : ∀ x c, rtFeed n x (r.holding y) c = continueWith (u.holding x) c) : RtMeasures n [y] r u :=
  .cons feed (.nil u)

/-- One list of samples after the other. -/
theorem RtMeasures.append {n : Nat} {w z : List Nib} {r u v : RtState} (hw : RtMeasures n w r u)
    (hz : RtMeasures n z u v) : RtMeasures n (w ++ z) r v := by
  induction hw with
  | nil => exact hz
  | cons feed _ ih => exact .cons feed (ih hz)

/-- The run in which the samples are measured: the first of them is held before it, and one sample more is held
after it. -/
theorem RtMeasures.run {n : Nat} {w : List Nib} {r v : RtState} (h : RtMeasures n w r v) {s : State} {y z : Nib}
    {feeds : List Nib} (hn : s.params.maxFrameBytes = n) (hr : s.rt = r.holding y) (hw : w ++ [z] = y :: feeds) :
    runInstrs (rtFeeds feeds) s = .next { s with
      rt := v.holding z, results := List.replicate feeds.length (.feed false) ++ s.results } := by
  induction h generalizing s y feeds with
  | nil r =>
    obtain ⟨rfl, rfl⟩ : z = y ∧ feeds = [] := by simpa [eq_comm] using hw
    rw [← hr]
    rfl
  | @cons y' w r u v feed _ ih =>
    obtain ⟨rfl, hw'⟩ : y' = y ∧ w ++ [z] = feeds := List.cons.inj hw
    obtain ⟨x, feeds, rfl⟩ := List.exists_cons_of_ne_nil (show feeds ≠ [] from hw' ▸ List.concat_ne_nil z w)
    subst hn
    have hfeed := exec_rtFeed_of_continue (s := s) (by rw [hr]; exact feed x s.ctl)
    have hrest := ih (s := { s with rt := u.holding x, results := .feed false :: s.results }) rfl rfl hw'
    refine (runInstrs_cons hfeed).trans (hrest.trans ?_)
    simp [List.replicate_succ']

/-- A run whose last sample completes a frame: the frame is handed over with that sample alone (R115). -/
theorem RtMeasures.run_complete {w : List Nib} {r u v : RtState} {s : State} {x y z : Nib} {feeds : List Nib}
    (h : RtMeasures s.params.maxFrameBytes w r u) (hr : s.rt = r.holding y) (hw : w ++ [z] = y :: feeds)
    (hlast : ∀ c, rtFeed s.params.maxFrameBytes x (u.holding z) c = rtComplete v c) :
    runInstrs (rtFeeds (feeds ++ [x])) s = .next { s with
      rt := v.goUnsync none, ctl := rtLatched v.buf v.sph s.ctl
      results := continueThenComplete feeds.length s.results } := by
  obtain ⟨t, hfeeds, hrest⟩ := runInstrs_append (rtFeeds feeds) (rtFeeds [x]) s
  obtain rfl := Host.Outcome.next.inj ((h.run rfl hr hw).symm.trans hfeeds)
  rw [rtFeeds_append, hrest, ← latchRt_frame]
  exact runInstrs_cons (exec_rtFeed_of_complete (hlast s.ctl))

/-! ## The lead-in -/

/-- The decoder with the high count at `k`, which saturates at 8 (R24). -/
abbrev RtState.highCount (k : Nat) (r : RtState) : RtState := { r with high := BitVec.ofNat 4 (min k 8) }

/-- The high count as a number. -/
theorem RtState.toNat_highCount (k : Nat) (r : RtState) : (r.highCount k).high.toNat = min k 8 := by
  rw [BitVec.toNat_ofNat]
  omega

/-- A decoder whose count is in its range stands at that count. -/
theorem RtState.highCount_self {r : RtState} (hhigh : r.high.toNat ≤ 8) : r.highCount r.high.toNat = r := by
  have hsame : BitVec.ofNat 4 (min r.high.toNat 8) = r.high := by
    rw [Nat.min_eq_left hhigh, BitVec.ofNat_toNat, BitVec.setWidth_eq]
  rw [RtState.highCount, hsame]

/-- A sample without a drop, measured while UNSYNC, is counted (R102). -/
theorem rtFeed_idle {n k : Nat} {r : RtState} (hphase : r.phase = .unsync) (x : Nib) (c : Ctl) :
    rtFeed n x ((r.highCount k).holding levelHigh) c = continueWith ((r.highCount (k + 1)).holding x) c := by
  have hsearch := rtSearch_cases levelHigh x ((r.highCount k).holding x)
  have hcount : min (min k 8 + 1) 8 = min (k + 1) 8 := by omega
  have hk : ((r.highCount k).holding x).high.toNat = min k 8 := RtState.toNat_highCount k r
  rw [hk, hcount] at hsearch
  rw [rtFeed_unsync (r := (r.highCount k).holding levelHigh) hphase]
  exact congrArg (continueWith · c) (hsearch.resolve_right fun h => h.elim (fun h => h.1 rfl) fun h => h.1 rfl).2

/-- Such samples one after the other (R102). -/
theorem rtMeasures_idle {n : Nat} (m : Nat) {k : Nat} {r : RtState} (hphase : r.phase = .unsync) :
    RtMeasures n (List.replicate m levelHigh) (r.highCount k) (r.highCount (k + m)) := by
  induction m generalizing k with
  | zero => exact .nil _
  | succ m ih =>
    rw [show k + (m + 1) = k + 1 + m by omega]
    exact .cons (rtFeed_idle hphase) ih

/-- A drop measured while UNSYNC, too soon after the last one, leaves the count at 0 (R103). -/
theorem rtFeed_dropTooSoon {n : Nat} {r : RtState} {y : Nib} (hphase : r.phase = .unsync) (hdrop : y ≠ 0xF#4) (x : Nib)
    (c : Ctl) : rtFeed n x ((r.highCount 0).holding y) c = continueWith ((r.highCount 0).holding x) c := by
  rw [rtFeed_unsync (r := (r.highCount 0).holding y) hphase]
  rcases rtSearch_cases y x ((r.highCount 0).holding x) with ⟨h, -⟩ | ⟨-, -, h⟩ | ⟨-, h, -⟩
  · exact absurd h hdrop
  · exact congrArg (continueWith · c) h
  · exact absurd (h.trans_eq (RtState.toNat_highCount 0 r)) (by decide)

/-- Settles O23: the sample held at first is an idle one and is counted, or has a drop and leaves the count at 0; all
but the last of the idle samples are counted after it. -/
theorem idleLeadInReadiesTheRtDecoder : Obligations.IdleLeadInReadiesTheRtDecoder := by
  unfold Obligations.IdleLeadInReadiesTheRtDecoder
  intro s n hphase hhigh hn
  obtain ⟨k, rfl⟩ : ∃ k, n = k + 1 := ⟨n - 1, by omega⟩
  have hzero : s.rt = s.rt.highCount 0 := by
    rw [← RtState.highCount_self (r := s.rt) (by simp [hhigh]), hhigh]
    rfl
  obtain ⟨m, hm, hmeasures⟩ : ∃ m, 7 ≤ m ∧ RtMeasures s.params.maxFrameBytes
      (s.rt.prev :: List.replicate k levelHigh) (s.rt.highCount 0) (s.rt.highCount m) := by
    by_cases hprev : s.rt.prev = 0xF#4
    · refine ⟨0 + (k + 1), by omega, ?_⟩
      rw [hprev]
      exact rtMeasures_idle (k + 1) hphase
    · have hlong : 8 ≤ k + 1 := hn.resolve_right fun h => hprev h.2
      exact ⟨0 + k, by omega, .cons (rtFeed_dropTooSoon hphase hprev) (rtMeasures_idle k hphase)⟩
  have hrun := hmeasures.run rfl (s := s) (y := s.rt.prev) (z := levelHigh) (feeds := List.replicate (k + 1) levelHigh)
    hzero (by rw [List.cons_append, ← List.replicate_succ'])
  have hready := RtState.toNat_highCount m s.rt
  refine ⟨_, hrun, hphase, rfl, ?_, ?_, rfl, rfl, by simp⟩
  · exact (Nat.le_min.mpr ⟨hm, by omega⟩).trans_eq hready.symm
  · exact hready.trans_le (Nat.min_le_right ..)

/-! ## The synchronized decoder -/

/-- The R→T decoder synchronized at window position 6, as the encoder's SOF leaves it (R104), in mode OneOfFour. -/
def rtSynced (phase : RtPhase) (half : Bool) (slot drop : BitVec 9) (sr : Byte) (bits : BitVec 3) (buf : List Byte) :
    RtState :=
  { prev := levelHigh, high := 8#4, phase := phase, mode := .oneOfFour, p := 6#3, sph := 2#2, half := half
    slot := slot, drop := drop, sr := sr, bits := bits, buf := buf }

/-- The SOF's first sample, low throughout after eight without a drop, is the sync candidate (R104, R105). -/
theorem rtFeed_syncEntry {n : Nat} {r : RtState} (hphase : r.phase = .unsync) (x : Nib) (c : Ctl) :
    rtFeed n x ((r.highCount 8).holding levelLow) c =
      continueWith ((rtSynced .soc true 0#9 0#9 0#8 0#3 []).holding x) c := by
  have hsync : syncPosition (rtWindow levelLow x) (~~~levelLow) = 6#3 := by
    have hlow : (levelLow ++ x).getLsbD 6 = false := by rw [BitVec.getLsbD_append]; rfl
    rw [syncPosition_rtWindow (i := 3) (by omega) (by decide) (by omega), if_pos hlow]
  rw [rtFeed_unsync (r := (r.highCount 8).holding levelLow) hphase]
  rcases rtSearch_cases levelLow x ((r.highCount 8).holding x) with ⟨h, -⟩ | ⟨-, h, -⟩ | ⟨-, -, h⟩
  · exact absurd h (by decide)
  · exact absurd ((RtState.toNat_highCount 8 r).symm.trans_lt h) (by decide)
  · rw [show ((r.highCount 8).holding levelLow).prev = levelLow from rfl]
    exact congrArg (continueWith · c) (h.trans (by simp [rtSyncEntry, hsync, rtSynced]))

/-- The second sample of a slot: low where the slot has its drop (R203). -/
def slotLevel (dropped : Bool) : Nib := if dropped then levelLow else levelHigh

/-- The decoder synchronized at position 6 measures a drop in a sample that is low throughout, and none in one that
is high throughout (R106). -/
theorem rtHalfDropped_slotLevel {r : RtState} (hp : r.p = 6#3) (d : Bool) (x : Nib) :
    rtHalfDropped (r.holding (slotLevel d)) x = d := by
  rw [rtHalfDropped, show (r.holding (slotLevel d)).p = 6#3 from hp]
  show (!(slotLevel d ++ x).getLsbD 6) = d
  rw [BitVec.getLsbD_append]
  cases d <;> rfl

section
variable {n : Nat} {phase : RtPhase} {slot drop : BitVec 9} {sr : Byte} {bits : BitVec 3} {buf : List Byte}

/-- A first half without a drop is counted (R108). -/
theorem rtFeed_highFirstHalf (hsync : phase ≠ .unsync) (x : Nib) (c : Ctl) :
    rtFeed n x ((rtSynced phase false slot drop sr bits buf).holding levelHigh) c =
      continueWith ((rtSynced phase true slot drop sr bits buf).holding x) c := by
  have hnone := rtHalfDropped_slotLevel (r := rtSynced phase false slot drop sr bits buf) rfl false x
  rw [rtFeed_firstHalf (r := (rtSynced phase false slot drop sr bits buf).holding levelHigh) hsync rfl]
  rw [droppedAt_rtWindow, show levelHigh = slotLevel false from rfl, hnone]
  rfl

/-- A second half counts its slot, and its drop where it is the group's only one (R109). -/
theorem rtFeed_levelSecondHalf (hsync : phase ≠ .unsync) {d : Bool} (hone : d = true → drop = 0#9) (x : Nib) (c : Ctl) :
    rtFeed n x ((rtSynced phase true slot drop sr bits buf).holding (slotLevel d)) c = rtGroupEnd n
      ((rtSynced phase false (slot + 1#9) (if d then slot + 1#9 else drop) sr bits buf).holding x) c := by
  have hd := rtHalfDropped_slotLevel (r := rtSynced phase true slot drop sr bits buf) rfl d x
  rw [rtFeed_eq_rtGroupEnd (r := (rtSynced phase true slot drop sr bits buf).holding (slotLevel d)) hsync rfl
    (by rwa [hd]), RtState.countSlot, hd]
  rfl

/-- Short of the group's end a second half does nothing else (R110). -/
theorem rtMeasures_secondHalf (hsync : phase ≠ .unsync) {d : Bool} (hone : d = true → drop = 0#9)
    (hshort : (slot + 1#9).toNat < 4) :
    RtMeasures n [slotLevel d] (rtSynced phase true slot drop sr bits buf)
      (rtSynced phase false (slot + 1#9) (if d then slot + 1#9 else drop) sr bits buf) :=
  .one fun x c => (rtFeed_levelSecondHalf hsync hone x c).trans <|
    ((rtGroupEnd_cases n _ c).resolve_right fun h => by
      rcases h with ⟨h, -⟩ | ⟨h, -⟩ | ⟨h, -⟩ <;> exact absurd hshort (Nat.not_lt.mpr h)).2

/-- A slot short of the group's end (R109, R110). -/
theorem rtMeasures_slot (hsync : phase ≠ .unsync) {d : Bool} (hone : d = true → drop = 0#9)
    (hshort : (slot + 1#9).toNat < 4) :
    RtMeasures n [levelHigh, slotLevel d] (rtSynced phase false slot drop sr bits buf)
      (rtSynced phase false (slot + 1#9) (if d then slot + 1#9 else drop) sr bits buf) :=
  .cons (rtFeed_highFirstHalf hsync) (rtMeasures_secondHalf hsync hone hshort)

/-- The last slot of a data group, where the group's end shifts in its bits (R110, R112). -/
theorem rtMeasures_lastSlot {d : Bool} {u : RtState} (hone : d = true → drop = 0#9)
    (hend : ∀ x c, rtPairGroupEnd n
      ((rtSynced .recv false 0#9 (if d then 4#9 else drop) sr bits buf).holding x) c = continueWith (u.holding x) c) :
    RtMeasures n [levelHigh, slotLevel d] (rtSynced .recv false 3#9 drop sr bits buf) u := by
  refine .cons (rtFeed_highFirstHalf (by decide)) (.one fun x c => ?_)
  rw [rtFeed_levelSecondHalf (by decide) hone]
  exact hend x c

end

/-! ## The preamble -/

/-- The preamble, measured by a decoder that is ready for it: the candidate, one slot, another, the drop in slot 3,
and the last slot, which ends the SOF group in mode OneOfFour (R104, R111, R202). -/
theorem rtMeasures_rtSof {n : Nat} {r : RtState} (hphase : r.phase = .unsync) :
    RtMeasures n rtSof (r.highCount 8) (rtSynced .recv false 0#9 0#9 0#8 0#3 []) := by
  have hsoc : RtPhase.soc ≠ .unsync := by decide
  have hend (x : Nib) (c : Ctl) : rtFeed n x ((rtSynced .soc true 3#9 3#9 0#8 0#3 []).holding (slotLevel false)) c =
      continueWith ((rtSynced .recv false 0#9 0#9 0#8 0#3 []).holding x) c :=
    rtFeed_levelSecondHalf hsoc (by decide) x c
  exact RtMeasures.cons (rtFeed_syncEntry hphase) <|
    (rtMeasures_secondHalf (d := false) hsoc (by decide) (by decide)).append <|
    (rtMeasures_slot (d := false) hsoc (by decide) (by decide)).append <|
    (rtMeasures_slot (d := true) hsoc (by decide) (by decide)).append <|
    .cons (rtFeed_highFirstHalf hsoc) (.one hend)

/-! ## A byte -/

/-- The drop recorded in a group of value `v` before slot `k`, counted from 0 (R31). -/
def dropBefore (v : BitVec 2) (k : Nat) : BitVec 9 := if v.toNat < k then BitVec.ofNat 9 (v.toNat + 1) else 0#9

/-- The waveform of a slot (R203). -/
theorem rtSlotWave_eq (v : BitVec 2) (k : Nat) : rtSlotWave v k = [levelHigh, slotLevel (k = v.toNat)] := by
  by_cases h : k = v.toNat <;> simp [rtSlotWave, slotLevel, h]

/-- Before its slot a group's drop is not recorded. -/
theorem dropBefore_of_le {v : BitVec 2} {k : Nat} (h : k ≤ v.toNat) : dropBefore v k = 0#9 :=
  if_neg (Nat.not_lt.mpr h)

/-- The drop recorded after slot `k`. -/
theorem dropBefore_succ (v : BitVec 2) (k : Nat) :
    (if decide (k = v.toNat) then BitVec.ofNat 9 k + 1#9 else dropBefore v k) = dropBefore v (k + 1) := by
  by_cases h : k = v.toNat
  · simp [h, dropBefore, BitVec.ofNat_add]
  · have hlt : v.toNat < k ↔ v.toNat < k + 1 := by omega
    simp [h, dropBefore, hlt]

/-- The shift register after a group of value `v` (R112). -/
def pairIn (sr : Byte) (v : BitVec 2) : Byte := (sr >>> 2) ||| (v.setWidth 8 <<< 6)

/-- The waveform of a group, with its end (R203, R112). -/
theorem rtMeasures_group {n : Nat} {v : BitVec 2} {sr : Byte} {bits : BitVec 3} {buf : List Byte} {u : RtState}
    (hend : ∀ x c, rtPairGroupEnd n ((rtSynced .recv false 0#9 (dropBefore v 4) sr bits buf).holding x) c =
      continueWith (u.holding x) c) :
    RtMeasures n (rtGroupWave v) (rtSynced .recv false 0#9 0#9 sr bits buf) u := by
  have hrecv : RtPhase.recv ≠ .unsync := by decide
  have hone (k : Nat) : decide (k = v.toNat) = true → dropBefore v k = 0#9 := fun h =>
    dropBefore_of_le (of_decide_eq_true h).le
  have hslot (k : Nat) (hk : k < 3) : RtMeasures n (rtSlotWave v k)
      (rtSynced .recv false (BitVec.ofNat 9 k) (dropBefore v k) sr bits buf)
      (rtSynced .recv false (BitVec.ofNat 9 (k + 1)) (dropBefore v (k + 1)) sr bits buf) := by
    rw [rtSlotWave_eq, ← dropBefore_succ, BitVec.ofNat_add]
    refine rtMeasures_slot hrecv (hone k) ?_
    rw [← BitVec.ofNat_add, BitVec.toNat_ofNat]
    omega
  have hlast : RtMeasures n (rtSlotWave v 3) (rtSynced .recv false 3#9 (dropBefore v 3) sr bits buf) u := by
    rw [rtSlotWave_eq]
    rw [← dropBefore_succ] at hend
    exact rtMeasures_lastSlot (hone 3) hend
  exact (((hslot 0 (by omega)).append (hslot 1 (by omega))).append (hslot 2 (by omega))).append hlast

/-- A complete group has its drop, whose slot counted from 0 is the group's value (R112). -/
theorem dropBefore_four (v : BitVec 2) : dropBefore v 4 ≠ 0#9 ∧ (dropBefore v 4 - 1#9).setWidth 8 = v.setWidth 8 := by
  revert v; decide

/-- So the two bits the group's end shifts in are its value. -/
theorem pairShifted_dropBefore {v : BitVec 2} {r : RtState} (hdrop : r.drop = dropBefore v 4) :
    pairShifted r = pairIn r.sr v := by
  rw [pairShifted, hdrop, (dropBefore_four v).2, pairIn]

/-- A group that does not complete a byte (R112). -/
theorem rtMeasures_pair {n : Nat} (v : BitVec 2) {sr : Byte} {bits : BitVec 3} {buf : List Byte}
    (hbits : bits.toNat ≠ 6) :
    RtMeasures n (rtGroupWave v) (rtSynced .recv false 0#9 0#9 sr bits buf)
      (rtSynced .recv false 0#9 0#9 (pairIn sr v) (BitVec.ofNat 3 (bits.toNat + 2)) buf) := by
  refine rtMeasures_group fun x c => ?_
  rcases rtPairGroupEnd_cases n ((rtSynced .recv false 0#9 (dropBefore v 4) sr bits buf).holding x) c with
    ⟨h | ⟨h, -⟩, -⟩ | ⟨-, h, -⟩ | ⟨-, -, hend⟩
  · exact absurd h (dropBefore_four v).1
  · exact absurd h hbits
  · exact absurd h hbits
  · rw [pairShifted_dropBefore rfl] at hend
    exact hend

/-- The group that completes a byte (R112, R114). -/
theorem rtMeasures_lastPair {n : Nat} (v : BitVec 2) {sr : Byte} {buf : List Byte} (hroom : buf.length ≠ n) :
    RtMeasures n (rtGroupWave v) (rtSynced .recv false 0#9 0#9 sr 6#3 buf)
      (rtSynced .recv false 0#9 0#9 0#8 0#3 (buf ++ [pairIn sr v])) := by
  refine rtMeasures_group fun x c => ?_
  rcases rtPairGroupEnd_cases n ((rtSynced .recv false 0#9 (dropBefore v 4) sr 6#3 buf).holding x) c with
    ⟨h | ⟨-, h⟩, -⟩ | ⟨-, -, -, hend⟩ | ⟨-, h, -⟩
  · exact absurd h (dropBefore_four v).1
  · exact absurd h hroom
  · rw [pairShifted_dropBefore rfl] at hend
    exact hend
  · exact absurd rfl h

/-- Four groups, least significant first, make up their byte (R63). -/
theorem pairIn_bitPairs (b : Byte) : (bitPairs b).foldl pairIn 0#8 = b := by
  revert b; decide

/-- A byte enters the buffer (R203, R112). -/
theorem rtMeasures_byte {n : Nat} (b : Byte) {buf : List Byte} (hroom : buf.length ≠ n) :
    RtMeasures n (rtByteWave b) (rtSynced .recv false 0#9 0#9 0#8 0#3 buf)
      (rtSynced .recv false 0#9 0#9 0#8 0#3 (buf ++ [b])) := by
  have hbyte := pairIn_bitPairs b
  simp only [bitPairs, List.foldl_cons, List.foldl_nil] at hbyte
  have hfirst := rtMeasures_pair (n := n) (b.extractLsb' 0 2) (sr := 0#8) (bits := 0#3) (buf := buf) (by decide)
  have hgroups := hfirst.append <|
    (rtMeasures_pair (b.extractLsb' 2 2) (by decide)).append <|
    (rtMeasures_pair (b.extractLsb' 4 2) (by decide)).append <|
    rtMeasures_lastPair (b.extractLsb' 6 2) hroom
  rw [hbyte] at hgroups
  simpa [rtByteWave, bitPairs] using hgroups

/-- The bytes of a frame enter the buffer one after the other (R210). -/
theorem rtMeasures_body {n : Nat} (bs : List Byte) {buf : List Byte} (hroom : buf.length + bs.length ≤ n) :
    RtMeasures n (bs.flatMap rtByteWave) (rtSynced .recv false 0#9 0#9 0#8 0#3 buf)
      (rtSynced .recv false 0#9 0#9 0#8 0#3 (buf ++ bs)) := by
  induction bs generalizing buf with
  | nil => simpa using RtMeasures.nil _
  | cons b bs ih =>
    rw [List.length_cons] at hroom
    have hrest := ih (buf := buf ++ [b]) (by rw [List.length_append, List.length_singleton]; omega)
    rw [List.append_assoc] at hrest
    exact (rtMeasures_byte b (by omega)).append hrest

/-- The drop of the EOF, in the first half of a data group's second slot, completes the frame (R108, R115). -/
theorem rtFeed_eofDrop {n : Nat} {buf : List Byte} (x : Nib) (c : Ctl) :
    rtFeed n x ((rtSynced .recv false 1#9 0#9 0#8 0#3 buf).holding levelLow) c =
      rtComplete ((rtSynced .recv true 1#9 0#9 0#8 0#3 buf).holding x) c := by
  have hdrop := rtHalfDropped_slotLevel (r := rtSynced .recv false 1#9 0#9 0#8 0#3 buf) rfl true x
  rw [rtFeed_firstHalf (r := (rtSynced .recv false 1#9 0#9 0#8 0#3 buf).holding levelLow)
    (show RtPhase.recv ≠ .unsync by decide) rfl]
  rw [droppedAt_rtWindow, show levelLow = slotLevel true from rfl, hdrop]
  rfl

/-- Settles O42: the sample held before the frame is the last of the lead-in and brings the high count to 8; after the
preamble and the bytes one slot without a drop is measured, and the EOF's drop completes the frame. -/
theorem rtDecoderInvertsEncRt : Obligations.RtDecoderInvertsEncRt := by
  unfold Obligations.RtDecoderInvertsEncRt
  intro s bs hfits hphase hprev hready hhigh
  refine ⟨rtFrameWave bs, exec_encRt_of_le (hfits.trans (Nat.min_le_left ..)), ?_⟩
  have hcount : s.rt.highCount s.rt.high.toNat = s.rt := RtState.highCount_self hhigh
  have hidle := RtMeasures.one (rtFeed_idle (n := s.params.maxFrameBytes) (k := s.rt.high.toNat) hphase)
  have hcountEight : s.rt.highCount (s.rt.high.toNat + 1) = s.rt.highCount 8 := by
    rw [RtState.highCount, RtState.highCount, Nat.min_eq_right (by omega), Nat.min_self]
  rw [hcountEight, hcount] at hidle
  have hmeasures := ((hidle.append (rtMeasures_rtSof hphase)).append
    (rtMeasures_body bs (buf := []) (by simpa using hfits.trans (Nat.min_le_right ..)))).append
    (rtMeasures_slot (d := false) (by decide) (by decide) (by decide))
  have hrun := hmeasures.run_complete (s := s) (y := levelHigh) (z := levelLow) (x := levelHigh)
    (feeds := rtSof ++ bs.flatMap rtByteWave ++ [levelHigh, levelHigh, levelLow])
    (by rw [RtState.holding, levelHigh, ← hprev]) (by simp [slotLevel]) (rtFeed_eofDrop levelHigh)
  have hwave : rtFrameWave bs = rtSof ++ bs.flatMap rtByteWave ++ [levelHigh, levelHigh, levelLow] ++ [levelHigh] := by
    simp [rtFrameWave, rtEof]
  rw [hwave]
  exact ⟨_, hrun, by simp, rfl, rfl, rfl⟩

end Sys2Proof.Machine
end

section
/-!
PROOFS. The T→R decoder and the encoder's frames (42_frame_encoder.md R208). A feed of the T→R decoder measures the
sample three feeds old, so `TrMeasures` speaks of the samples measured and leaves the three of the window open, and
`TrMeasures.reads` shifts the run by those three once. What is assembled is followed by `TrHolds`: the bytes and the
bits received so far, whether the last byte stands in the buffer already or waits to be flushed.
-/

namespace Sys2Proof.Machine

/-! ## Samples measured by the T→R decoder -/

/-- The decoder with the given samples in its window, the first of them the one that is measured next (R35, R155). -/
abbrev TrState.window (a b c : Nib) (t : TrState) : TrState := { t with w0 := a, w1 := b, w2 := c }

/-- The samples `w`, measured one after the other by the decoder `t`, all return CONTINUE and leave `u`, whatever the
rest of the window holds. -/
inductive TrMeasures (n : Nat) : List Nib → TrState → TrState → Prop
  | nil (t : TrState) : TrMeasures n [] t t
  | cons {y : Nib} {w : List Nib} {t u v : TrState}
      (feed : ∀ a b x c, trFeed n x (t.window y a b) c = continueWith (u.window a b x) c)
      (rest : TrMeasures n w u v) : TrMeasures n (y :: w) t v

/-- One list of samples after the other. -/
theorem TrMeasures.append {n : Nat} {w z : List Nib} {t u v : TrState} (hw : TrMeasures n w t u)
    (hz : TrMeasures n z u v) : TrMeasures n (w ++ z) t v := by
  induction hw with
  | nil => exact hz
  | cons feed _ ih => exact .cons feed (ih hz)

/-- The feeds in which the samples are measured: three of them stand in the window before, and three samples more
stand in it after. -/
theorem TrMeasures.reads {n : Nat} {w : List Nib} {t u : TrState} (h : TrMeasures n w t u) {a b c a' b' c' : Nib}
    {feeds : List Nib} (hw : w ++ [a', b', c'] = a :: b :: c :: feeds) :
    TrReads n feeds (t.window a b c) (u.window a' b' c') := by
  induction h generalizing a b c feeds with
  | nil t =>
    obtain ⟨rfl, rfl, rfl, rfl⟩ : a' = a ∧ b' = b ∧ c' = c ∧ feeds = [] := by simpa [eq_comm] using hw
    exact .nil _
  | @cons y w t u v feed _ ih =>
    obtain ⟨rfl, hw'⟩ : y = a ∧ w ++ [a', b', c'] = b :: c :: feeds := List.cons.inj hw
    obtain ⟨x, feeds, rfl⟩ := List.exists_cons_of_ne_nil (show feeds ≠ [] by
      rintro rfl
      simpa using congrArg List.length hw')
    exact .cons (feed b c x) (ih hw')

/-! ## Bit periods -/

/-- The sample of a half, modulated throughout or not at all (R206). -/
def halfLevel (m : Bool) : Nib := if m then levelHigh else levelLow

/-- A decoder that measures the earliest sub-sample measures the level of the half (R155). -/
theorem trHalfModulated_halfLevel {t : TrState} (hj : t.j = 3#2) (m : Bool) (a b : Nib) :
    trHalfModulated (t.window (halfLevel m) a b) = m := by
  cases m with
  | true => exact trHalfModulated_of_high rfl
  | false => exact trHalfModulated_of_low rfl (by simp [hj])

/-- What a first half records (R156). -/
def firstHalfSub (m : Bool) : TrSub := if m then .first else .none

/-- The symbol of a bit period with halves of the given levels (R157). -/
theorem periodSymbol_combine (p q : Bool) : PeriodSymbol (firstHalfSub p) q (combine q (firstHalfSub p)) := by
  cases p <;> cases q <;> decide

/-- A first half of a given level is recorded (R156). -/
theorem trMeasures_firstHalf {n : Nat} {t : TrState} (hwarm : t.warm = 3#2) (hj : t.j = 3#2)
    (hsync : t.phase ≠ .unsync) (hhalf : t.half = false) (p : Bool) :
    TrMeasures n [halfLevel p] t { t with half := true, sub := firstHalfSub p } := by
  refine .cons (fun a b x c => ?_) (.nil _)
  rw [trFeed_recordsFirstHalf (t := t.window (halfLevel p) a b) hwarm hsync hhalf, trHalfModulated_halfLevel hj]
  rfl

/-- A second half of a given level, its period's symbol not NONE, takes the phase step (R157). -/
theorem trFeed_levelSecondHalf {n : Nat} {t : TrState} {p q : Bool} (hwarm : t.warm = 3#2) (hj : t.j = 3#2)
    (hsync : t.phase ≠ .unsync) (hsome : combine q (firstHalfSub p) ≠ .none) (a b x : Nib) (c : Ctl) :
    trFeed n x (TrState.window (halfLevel q) a b { t with half := true, sub := firstHalfSub p }) c =
      trPhaseStep n (TrState.window a b x { t with half := false, sub := combine q (firstHalfSub p) }) c := by
  refine trFeed_eq_trPhaseStep (t := TrState.window (halfLevel q) a b { t with half := true, sub := firstHalfSub p })
    hwarm hsync rfl hsome ?_
  rw [trHalfModulated_halfLevel (t := { t with half := true, sub := firstHalfSub p }) hj]
  exact periodSymbol_combine p q

/-- A bit period whose symbol is not NONE does what the phase step does (R157). -/
theorem trMeasures_period {n : Nat} {t u : TrState} {p q : Bool} (hwarm : t.warm = 3#2) (hj : t.j = 3#2)
    (hsync : t.phase ≠ .unsync) (hhalf : t.half = false) (hsome : combine q (firstHalfSub p) ≠ .none)
    (hstep : ∀ a b x c, trPhaseStep n
      (TrState.window a b x { t with half := false, sub := combine q (firstHalfSub p) }) c =
        continueWith (u.window a b x) c) :
    TrMeasures n [halfLevel p, halfLevel q] t u :=
  (trMeasures_firstHalf hwarm hj hsync hhalf p).append <|
    .cons (fun a b x c => (trFeed_levelSecondHalf hwarm hj hsync hsome a b x c).trans (hstep a b x c)) (.nil _)

/-! ## What is assembled -/

/-- A decoder between two data symbols, synchronized at the earliest sub-sample, that has received the bytes `bs`, and
then `k` symbols which stand in `sr`. A byte whose eighth symbol is the last one received is counted among `bs`: it
waits in the shift register until the next symbol flushes it (R162). -/
structure TrHolds (bs : List Byte) (sr : Byte) (k : Nat) (t : TrState) : Prop where
  warm : t.warm = 3#2
  j : t.j = 3#2
  half : t.half = false
  phase : t.phase = .sofc ∨ t.phase = .data
  assembled : (t.buf = bs ∧ t.sr = sr ∧ t.bc = BitVec.ofNat 4 k)
    ∨ (k = 0 ∧ sr = 0#8 ∧ t.bc = 8#4 ∧ t.buf ++ [t.sr] = bs)

/-- Such a decoder is synchronized. -/
theorem TrHolds.sync {bs : List Byte} {sr : Byte} {k : Nat} {t : TrState} (h : TrHolds bs sr k t) :
    t.phase ≠ .unsync := by
  rcases h.phase with hp | hp <;> simp [hp]

/-- With a symbol in the shift register, no byte waits. -/
theorem TrHolds.unflushed {bs : List Byte} {sr : Byte} {k : Nat} {t : TrState} (h : TrHolds bs sr k t) (hk : k ≠ 0) :
    t.buf = bs ∧ t.sr = sr ∧ t.bc = BitVec.ofNat 4 k :=
  h.assembled.resolve_right fun hw => hk hw.1

/-- A byte is received with its eighth symbol (R42). -/
theorem TrHolds.byte {bs : List Byte} {sr : Byte} {t : TrState} (h : TrHolds bs sr 8 t) :
    TrHolds (bs ++ [sr]) 0#8 0 t := by
  obtain ⟨hbuf, hsr, hbc⟩ := h.unflushed (by decide)
  exact ⟨h.warm, h.j, h.half, h.phase, .inr ⟨rfl, rfl, hbc, by rw [hbuf, hsr]⟩⟩

/-- The shift register after one symbol more (R41). -/
def symbolIn (sr : Byte) (v : Bool) : Byte := BitVec.ofNat 8 (sr.toNat / 2 + if v then 128 else 0)

/-- A data symbol, whether or not a byte waits to be flushed (R162). -/
theorem TrHolds.symbol {n k : Nat} {bs : List Byte} {sr : Byte} {t : TrState} (h : TrHolds bs sr k t) (hk : k < 8)
    (hroom : bs.length ≤ n) (v : Bool) (c : Ctl) :
    trSymbol n v t c =
      continueWith { t with phase := .data, buf := bs, sr := symbolIn sr v, bc := BitVec.ofNat 4 (k + 1) } c := by
  rcases h.assembled with ⟨hbuf, hsr, hbc⟩ | ⟨rfl, rfl, hbc, hbuf⟩
  · have hnotFull : t.bc ≠ 8#4 := by
      rw [hbc]
      intro h8
      have hmod : k % 16 = 8 := by simpa using congrArg BitVec.toNat h8
      omega
    rw [trSymbol_of_notFull hnotFull, trShiftIn_eq, hbuf, hsr, hbc, ← symbolIn,
      show BitVec.ofNat 4 k + 1#4 = BitVec.ofNat 4 (k + 1) from (BitVec.ofNat_add ..).symm]
  · have hroom' : t.buf.length ≠ n := by
      rw [← hbuf, List.length_append, List.length_singleton] at hroom
      omega
    rw [trSymbol_of_flush hbc hroom', trShiftIn_eq, hbuf]
    rfl

/-- The waveform of a data bit is a bit period of opposite levels (R206). -/
theorem trBitWave_eq (v : Bool) : trBitWave v = [halfLevel (!v), halfLevel v] := by
  cases v <;> rfl

/-- The symbol of a data bit's period (R157, R206). -/
theorem combine_bit (v : Bool) : combine v (firstHalfSub !v) = if v then .second else .first := by
  cases v <;> rfl

/-- A data bit is received (R206, R162). -/
theorem TrHolds.bit {n k : Nat} {bs : List Byte} {sr : Byte} {t : TrState} (h : TrHolds bs sr k t) (hk : k < 8)
    (hroom : bs.length ≤ n) (v : Bool) :
    ∃ u, TrMeasures n (trBitWave v) t u ∧ TrHolds bs (symbolIn sr v) (k + 1) u := by
  have hsymbol := combine_bit v
  refine ⟨{ t with
    half := false, sub := combine v (firstHalfSub !v), phase := .data, buf := bs, sr := symbolIn sr v
    bc := BitVec.ofNat 4 (k + 1) }, ?_, h.warm, h.j, rfl, .inr rfl, .inl ⟨rfl, rfl, rfl⟩⟩
  rw [trBitWave_eq]
  refine trMeasures_period h.warm h.j h.sync h.half (by rw [hsymbol]; cases v <;> decide) fun a b x c => ?_
  have hheld : TrHolds bs sr k (TrState.window a b x { t with half := false, sub := combine v (firstHalfSub !v) }) :=
    ⟨h.warm, h.j, rfl, h.phase, h.assembled⟩
  rw [trPhaseStep_data hheld.phase, trDataPeriod_oneHalf (by rw [hsymbol]; cases v <;> simp)]
  have hv : decide (combine v (firstHalfSub !v) = .second) = v := by rw [hsymbol]; cases v <;> rfl
  rw [hv]
  exact hheld.symbol hk hroom v c

/-! ## Bytes -/

/-- The first `k` bits of a byte, as they stand in the shift register (R41). -/
def topBits (b : Byte) (k : Nat) : Byte := BitVec.ofNat 8 (b.toNat % 2 ^ k * 2 ^ (8 - k))

/-- The waveform of the first `k` bits of a byte (R206). -/
def bitsWave (b : Byte) (k : Nat) : List Nib := (List.range k).flatMap fun i => trBitWave (b.toNat / 2 ^ i % 2 = 1)

/-- Half of what the first `k` bits make of the shift register: their value, as far up as it goes. -/
theorem topBits_toNat_half (b : Byte) {k : Nat} (hk : k < 8) :
    (topBits b k).toNat / 2 = b.toNat % 2 ^ k * 2 ^ (7 - k) ∧ b.toNat % 2 ^ k * 2 ^ (7 - k) < 2 ^ 7 := by
  have hpow : 2 ^ k * 2 ^ (7 - k) = 2 ^ 7 := by rw [← pow_add, Nat.add_sub_cancel' (by omega)]
  have hfits : b.toNat % 2 ^ k * 2 ^ (7 - k) < 2 ^ 7 :=
    hpow ▸ Nat.mul_lt_mul_of_pos_right (Nat.mod_lt _ (Nat.two_pow_pos k)) (Nat.two_pow_pos _)
  refine ⟨?_, hfits⟩
  rw [topBits, show 8 - k = 7 - k + 1 by omega, pow_succ, ← mul_assoc, BitVec.toNat_ofNat]
  omega

/-- One bit more of a byte in the shift register. -/
theorem symbolIn_topBits (b : Byte) {k : Nat} (hk : k < 8) :
    symbolIn (topBits b k) (b.toNat / 2 ^ k % 2 = 1) = topBits b (k + 1) := by
  have hnext : b.toNat % 2 ^ (k + 1) * 2 ^ (8 - (k + 1)) =
      b.toNat % 2 ^ k * 2 ^ (7 - k) + b.toNat / 2 ^ k % 2 * 2 ^ 7 := by
    have hpow : 2 ^ k * 2 ^ (7 - k) = 2 ^ 7 := by rw [← pow_add, Nat.add_sub_cancel' (by omega)]
    rw [Nat.mod_pow_succ, show 8 - (k + 1) = 7 - k by omega, add_mul, mul_right_comm, hpow, mul_comm (2 ^ 7)]
  rw [symbolIn, (topBits_toNat_half b hk).1, topBits, hnext]
  rcases Nat.mod_two_eq_zero_or_one (b.toNat / 2 ^ k) with h | h <;> simp [h]

/-- The first bits of a byte are received (R206). -/
theorem TrHolds.bits {n k : Nat} {bs : List Byte} {t : TrState} (h : TrHolds bs 0#8 0 t) (hroom : bs.length ≤ n)
    (b : Byte) (hk : k ≤ 8) : ∃ u, TrMeasures n (bitsWave b k) t u ∧ TrHolds bs (topBits b k) k u := by
  induction k with
  | zero => exact ⟨t, .nil t, by simpa [topBits, Nat.mod_one] using h⟩
  | succ k ih =>
    obtain ⟨u, hbits, hu⟩ := ih (by omega)
    obtain ⟨v, hbit, hv⟩ := hu.bit (by omega) hroom (b.toNat / 2 ^ k % 2 = 1)
    rw [symbolIn_topBits b (by omega)] at hv
    refine ⟨v, ?_, hv⟩
    rw [bitsWave, List.range_succ, List.flatMap_append, List.flatMap_singleton]
    exact hbits.append hbit

/-- All bits of a byte. -/
theorem bitsWave_eight (b : Byte) : bitsWave b 8 = trByteWave b := by
  rw [trByteWave_eq, bitsWave]
  exact List.flatMap_congr fun i _ => by simp [trBitWave, levelLow, levelHigh]

/-- A byte whose bits are all in the shift register stands there. -/
theorem topBits_eight (b : Byte) : topBits b 8 = b := by
  rw [topBits, Nat.sub_self, pow_zero, mul_one, Nat.mod_eq_of_lt b.isLt, BitVec.ofNat_toNat, BitVec.setWidth_eq]

/-- The bytes of a frame are received one after the other (R211). -/
theorem TrHolds.bytes {n : Nat} (bs : List Byte) {pre : List Byte} {t : TrState} (h : TrHolds pre 0#8 0 t)
    (hroom : pre.length + bs.length ≤ n) :
    ∃ u, TrMeasures n (bs.flatMap trByteWave) t u ∧ TrHolds (pre ++ bs) 0#8 0 u := by
  induction bs generalizing pre t with
  | nil => exact ⟨t, .nil t, by rwa [List.append_nil]⟩
  | cons b bs ih =>
    rw [List.length_cons] at hroom
    obtain ⟨u, hbyte, hu⟩ := h.bits (n := n) (by omega) b (Nat.le_refl 8)
    rw [topBits_eight] at hu
    rw [bitsWave_eight] at hbyte
    obtain ⟨v, hrest, hv⟩ := ih hu.byte (by rw [List.length_append, List.length_singleton]; omega)
    rw [List.append_assoc] at hv
    exact ⟨v, hbyte.append hrest, hv⟩

/-! ## The postamble -/

/-- The postamble up to the half that ends the frame: the lead-in, which is counted as one symbol more, the
both-halves period that starts the EOF, and the first half of the period after it (R163, R164, R207). -/
theorem TrHolds.eof {n k : Nat} {bs : List Byte} {sr : Byte} {t : TrState} (h : TrHolds bs sr k t) (hk : k < 8)
    (hroom : bs.length ≤ n) :
    ∃ u : TrState, u.warm = 3#2 ∧ u.j = 3#2 ∧ u.phase = .eoff ∧ u.buf = bs ∧ u.sr = symbolIn sr false
      ∧ u.bc = BitVec.ofNat 4 (k + 1)
      ∧ TrMeasures n [levelHigh, levelLow, levelHigh, levelHigh, levelHigh] t
          { u with half := true, sub := firstHalfSub true } := by
  obtain ⟨u, hleadIn, hu⟩ := h.bit hk hroom false
  obtain ⟨hbuf, hsr, hbc⟩ := hu.unflushed (Nat.succ_ne_zero k)
  have hboth : TrMeasures n [halfLevel true, halfLevel true] u
      { u with phase := .eoff, half := false, sub := .both } := by
    refine trMeasures_period hu.warm hu.j hu.sync hu.half (by decide) fun a b x c => ?_
    exact (trPhaseStep_data (t := TrState.window a b x { u with half := false, sub := .both }) hu.phase).trans
      (trDataPeriod_both rfl)
  have hfirst := trMeasures_firstHalf (n := n) (t := { u with phase := .eoff, half := false, sub := .both })
    hu.warm hu.j (by simp) rfl true
  exact ⟨{ u with phase := .eoff }, hu.warm, hu.j, rfl, hbuf, hsr, hbc, (hleadIn.append hboth).append hfirst⟩

/-- The unmodulated half after it ends the frame (R164). -/
theorem trFeed_eofEnd {n : Nat} {t : TrState} (hwarm : t.warm = 3#2) (hj : t.j = 3#2) (hphase : t.phase = .eoff)
    (a b x : Nib) (c : Ctl) :
    trFeed n x (TrState.window levelLow a b { t with half := true, sub := firstHalfSub true }) c =
      trEndOfFrame n (TrState.window a b x { t with half := false, sub := .first }) c :=
  (trFeed_levelSecondHalf (q := false) hwarm hj (by simp [hphase]) (by decide) a b x c).trans <|
    trPhaseStep_eoff (t := TrState.window a b x { t with half := false, sub := .first }) hphase

/-- A frame from its preamble to its postamble, and one unmodulated sample: the last half measured ends the frame, and
what it hands over is decided by the bytes and the symbols received (R164, R208). -/
theorem trDecodes_frame {k : Nat} {s : State} {bs bytes : List Byte} {sr : Byte} {tb : BitVec 3} {body : List Nib}
    (hphase : s.tr.phase = .unsync) (h0 : s.tr.w0 = levelLow) (h1 : s.tr.w1 = levelLow) (h2 : s.tr.w2 = levelLow)
    (hk : k < 8) (hroom : bs.length ≤ s.params.maxFrameBytes)
    (hbody : ∀ t, TrHolds [] 0#8 0 t → ∃ u, TrMeasures s.params.maxFrameBytes body t u ∧ TrHolds bs sr k u)
    (hend : ∀ (t : TrState) (c : Ctl), t.buf = bs → t.sr = symbolIn sr false → t.bc = BitVec.ofNat 4 (k + 1) →
      trEndOfFrame s.params.maxFrameBytes t c = trComplete bytes tb t c) :
    ∃ t, runInstrs (trFeeds (trSof ++ body ++ trEof ++ [levelLow])) s = .next t
      ∧ t.results = continueThenComplete (trSof ++ body ++ trEof).length s.results
      ∧ t.ctl = trLatched bytes tb s.ctl ∧ t.tr.phase = .unsync ∧ t.rt = s.rt := by
  obtain ⟨u, hbits, hu⟩ := hbody (trSynced levelLow levelLow levelLow .sofc false .second)
    ⟨rfl, rfl, rfl, .inl rfl, .inl ⟨rfl, rfl, rfl⟩⟩
  obtain ⟨v, hwarm, hj, heoff, hbuf, hsr, hbc, heof⟩ := hu.eof hk hroom
  obtain ⟨a, b, c, feeds, hfeeds⟩ : ∃ a b c feeds, body ++ trEof = a :: b :: c :: feeds := by
    match body with
    | [] => exact ⟨_, _, _, _, rfl⟩
    | [_] => exact ⟨_, _, _, _, rfl⟩
    | [_, _] => exact ⟨_, _, _, _, rfl⟩
    | _ :: _ :: _ :: _ => exact ⟨_, _, _, _, rfl⟩
  have hreads := (trReads_trSof a b c hphase h0 h1 h2).append
    ((hbits.append heof).reads (a' := levelLow) (b' := levelLow) (c' := levelLow)
      (by rw [← hfeeds]; simp [trEof]))
  have hwave : trSof ++ [a, b, c] ++ feeds = trSof ++ body ++ trEof := by
    rw [List.append_assoc, List.append_assoc, hfeeds]
    rfl
  rw [hwave] at hreads
  have hlast (x : Ctl) :=
    (trFeed_eofEnd (n := s.params.maxFrameBytes) hwarm hj heoff levelLow levelLow levelLow x).trans
      (hend _ x hbuf hsr hbc)
  exact ⟨_, hreads.run_complete hlast, rfl, rfl, rfl, rfl⟩

/-- Settles O43: after whole bytes the lead-in is the only symbol held, and the frame is byte-aligned. -/
theorem trDecoderInvertsEncTr : Obligations.TrDecoderInvertsEncTr := by
  unfold Obligations.TrDecoderInvertsEncTr
  intro s bs hfits hphase h0 h1 h2
  have hroom : bs.length ≤ s.params.maxFrameBytes := hfits.trans (Nat.min_le_right ..)
  refine ⟨trFrameWave bs, exec_encTr_of_le (hfits.trans (Nat.min_le_left ..)), ?_⟩
  refine trDecodes_frame (k := 0) (sr := 0#8) hphase h0 h1 h2 (by decide) hroom
    (fun t ht => ht.bytes bs (by simpa using hroom)) fun t c hbuf hsr hbc => ?_
  have hend := trEndOfFrame_cases s.params.maxFrameBytes t c
  simpa [hbc, hbuf] using hend

/-- The waveform of the first bits of a byte is the beginning of the byte's (R206, R208). -/
theorem take_bitsWave (b : Byte) {k : Nat} (hk : k ≤ 8) : (bitsWave b 8).take (2 * k) = bitsWave b k := by
  have hlength (m : Nat) : (bitsWave b m).length = 2 * m := by
    simp [bitsWave, List.length_flatMap, mul_comm]
  rw [← Nat.add_sub_cancel' hk, bitsWave, List.range_add, List.flatMap_append, ← bitsWave]
  exact List.take_left' (hlength k)

/-- What the end of the frame makes of the first `k` bits of a byte and the lead-in: those bits (R66). -/
theorem partialByte_topBits (b : Byte) {k : Nat} (hk : k < 8) :
    partialByte (symbolIn (topBits b k) false) (BitVec.ofNat 4 (k + 1)) = BitVec.ofNat 8 (b.toNat % 2 ^ k) := by
  obtain ⟨hhalf, hfits⟩ := topBits_toNat_half b hk
  have hsr : (symbolIn (topBits b k) false).toNat = b.toNat % 2 ^ k * 2 ^ (7 - k) := by
    simp only [symbolIn, hhalf, Bool.false_eq_true, if_false, Nat.add_zero, BitVec.toNat_ofNat]
    omega
  have hbc : (BitVec.ofNat 4 (k + 1)).toNat = k + 1 := by
    rw [BitVec.toNat_ofNat]
    omega
  have hsmall : b.toNat % 2 ^ k < 2 ^ 8 := (Nat.mod_le ..).trans_lt b.isLt
  apply BitVec.eq_of_toNat_eq
  rw [partialByte_toNat _ _ (by omega), hsr, hbc, show 8 - (k + 1) = 7 - k by omega,
    Nat.mul_div_cancel _ (Nat.two_pow_pos _), Nat.add_sub_cancel, Nat.mod_mod, BitVec.toNat_ofNat,
    Nat.mod_eq_of_lt hsmall]

/-- Settles O44: after the first `k` bits of a byte the lead-in is symbol `k + 1`, and the bits below it are handed
over. -/
theorem trDecoderRecoversAPartialFinalByte : Obligations.TrDecoderRecoversAPartialFinalByte := by
  unfold Obligations.TrDecoderRecoversAPartialFinalByte
  intro s bs b k hpos hk hroom hphase h0 h1 h2 body w
  have hbytes (l : List Byte) : body l = l.flatMap trByteWave := by
    rw [funext trByteWave_eq]
    rfl
  have hbits : (body [b]).take (2 * k) = bitsWave b k := by
    rw [hbytes, List.flatMap_singleton, ← bitsWave_eight, take_bitsWave b (by omega)]
  have hwave : w = trSof ++ (bs.flatMap trByteWave ++ bitsWave b k) ++ trEof ++ [levelLow] := by
    simp only [w, hbytes bs, hbits, List.append_assoc]
    rfl
  have hfull : bs.length ≠ s.params.maxFrameBytes := by omega
  obtain ⟨t, hrun, hresults, hctl, hunsync, -⟩ := trDecodes_frame (k := k) (sr := topBits b k)
    (bytes := bs ++ [BitVec.ofNat 8 (b.toNat % 2 ^ k)]) (tb := BitVec.ofNat 3 k) (bs := bs)
    (body := bs.flatMap trByteWave ++ bitsWave b k) hphase h0 h1 h2 (by omega) (by omega)
    (fun t ht => by
      obtain ⟨u, hu, hheld⟩ := ht.bytes (n := s.params.maxFrameBytes) bs (by simp; omega)
      obtain ⟨v, hv, hpart⟩ := hheld.bits (n := s.params.maxFrameBytes) (by simp; omega) b (k := k) (by omega)
      exact ⟨v, hu.append hv, hpart⟩)
    (fun t c hbuf hsr hbc => by
      have htwo : t.bc.toNat = k + 1 := by rw [hbc, BitVec.toNat_ofNat]; omega
      rcases trEndOfFrame_cases s.params.maxFrameBytes t c with ⟨-, h, -⟩ | ⟨-, h, -⟩ | ⟨-, -, h⟩ | ⟨-, h, -⟩
      · rw [h] at htwo; cases htwo
      · exact absurd (hbuf ▸ h) hfull
      · rw [h, htwo, hbuf, hsr, hbc, partialByte_topBits b (by omega), Nat.add_sub_cancel]
      · omega)
  rw [hwave]
  exact ⟨t, hrun, by simp only [hresults, List.length_append, List.length_singleton, Nat.add_sub_cancel], hctl, hunsync⟩

end Sys2Proof.Machine
end
